-- ==== Sys2Proof/Word.lean ====
section
/-! DEFINITION. The numbers the BW416 manual speaks of: bytes and words, and the bounded numbers that
name hosts, slots, sources, lines and groups (Tables 0-3 and 0-6). -/

namespace Sys2Proof

/-- One byte of a frame (11.4). -/
abbrev Byte := BitVec 8

/-- A 32-bit timebase value (R158). -/
abbrev Time := BitVec 32

/-- A host H0 to H3, and the port HP0 to HP3 of the same number (0.5, item 1). -/
abbrev HostId := Fin 4

/-- A record slot 0 to 47 (R1). -/
abbrev SlotId := Fin 48

/-- A source 0 to 63 (Table 0-3). -/
abbrev SourceId := Fin 64

/-- An event line EV0 to EV23 (R104). -/
abbrev LineId := Fin 24

/-- A line group G0 to G3 (R119). -/
abbrev GroupId := Fin 4

/-- A set of hosts, bit n set for Hn (Table 11-5). -/
abbrev HostSet := BitVec 4

end Sys2Proof
end

