-- ==== Sys2Proof/Syntax.lean ====
section
/-! DEFINITION. The commands and events of the block: one constructor of `Instr` for each row of
spec/opcode_table.json. -/

namespace Sys2Proof

/-- The host commands of the command index (Table 11-8), FETCH apart: a fetch is a transaction kind and not a
frame's command (R165). -/
inductive Cmd where
  | ident | status | attach | detach | power | level | take | peek | ack | detail
  | post | receipt | routeRead | routeWrite | purge | lineRead | lineWrite | flushall | restore
  deriving DecidableEq, Repr

/-- The three sample tick streams (R105, R159). -/
inductive Period where
  | us10 | us100 | ms1
  deriving DecidableEq, Repr

/-- The pins that count when a device reset ends: the two-bit value of ADM1 and ADM0, read as a host number (R156), and the ports whose
chip select is low (R165). -/
structure ResetPins where
  straps : HostId
  selected : HostSet
  deriving DecidableEq, Repr

/-- The steps of the part, one constructor for each row of the table.

A host command's row carries the port `p` its frame arrived on, which is also the requesting host, and the
frame's `body` bytes (Table 11-6). Log entry 2 says how such a row meets the port. -/
inductive Instr where
  /-- DEVICE_RESET (R139, R156, R165), with the pins as it ends. -/
  | deviceReset (pins : ResetPins)
  /-- REQUEST_TRANSACTION (R166): the whole bytes that port `p` received up to the rising edge of its chip
  select. -/
  | requestTransaction (p : HostId) (bytes : List Byte)
  /-- EXECUTION_COMPLETE (R168, step 3) on port `p`. -/
  | executionComplete (p : HostId)
  /-- FETCH (R169) on port `p`, `clocked` being the number of whole bytes the host clocks after the first. -/
  | fetch (p : HostId) (clocked : Nat)
  | ident (p : HostId) (body : List Byte)
  | status (p : HostId) (body : List Byte)
  | attach (p : HostId) (body : List Byte)
  | detach (p : HostId) (body : List Byte)
  | power (p : HostId) (body : List Byte)
  | level (p : HostId) (body : List Byte)
  | take (p : HostId) (body : List Byte)
  | peek (p : HostId) (body : List Byte)
  | ack (p : HostId) (body : List Byte)
  | detail (p : HostId) (body : List Byte)
  | post (p : HostId) (body : List Byte)
  | receipt (p : HostId) (body : List Byte)
  | routeRead (p : HostId) (body : List Byte)
  | routeWrite (p : HostId) (body : List Byte)
  | purge (p : HostId) (body : List Byte)
  | lineRead (p : HostId) (body : List Byte)
  | lineWrite (p : HostId) (body : List Byte)
  | flushall (p : HostId) (body : List Byte)
  | restore (p : HostId) (body : List Byte)
  /-- MILLISECOND_TICK (R159). -/
  | millisecondTick
  /-- SAMPLE_TICK (R105): one tick of the stream `period`. Bit n of `levels` is the level of pin EVn at the tick.
  `order` is the order in which the lines of the tick are taken, which the part does not fix (R122); lines it
  does not name follow in ascending order. -/
  | sampleTick (period : Period) (levels : BitVec 24) (order : List LineId)
  /-- DEADLINE_EXPIRY (R64) of host `h`'s copy of the record in `slot`. -/
  | deadlineExpiry (slot : SlotId) (h : HostId)
  /-- GRACE_EXPIRY (R67) of host `h`'s copy of the record in `slot`. -/
  | graceExpiry (slot : SlotId) (h : HostId)
  /-- WAKE_TIMER_EXPIRY (R149) of host `h`. -/
  | wakeTimerExpiry (h : HostId)
  /-- REFCLK_RISING_EDGE (R160). -/
  | refclkRisingEdge
  /-- LOSS_DETECTION (R160). -/
  | lossDetection
  /-- STABILITY_REACHED (R161). -/
  | stabilityReached
  deriving DecidableEq, Repr

end Sys2Proof
end

