-- ==== Sys2Proof/Decode.lean ====
section
/-! DEFINITION. The command a table word spells. The block has no instruction word: no row of
spec/opcode_table.json gives bits, so no word spells a command. The command codes of host frames (Table 11-8) are read
in Machine/Frames.lean, from the frame's first byte. -/

namespace Sys2Proof

/-- No row of the table gives bits: every word is answered `none`. -/
def decodeTableWord (_nbits _w : Nat) : Option Instr := none

end Sys2Proof
end

