-- ==== Sys2Proof/Config.lean ====
section
/-! DEFINITION. The fixed numbers of the part (Tables 0-6 and 11-7, R159, R160, R172). There is no free value: the manual leaves
no result of a step open, and the orders it leaves open are the sender's (log entries 3 and 4). -/

namespace Sys2Proof.Config

/-- Records of general sources that may be live at once (R3). -/
def generalCapacity : Nat := 44
/-- Records of system sources that may be live at once (R3). -/
def systemCapacity : Nat := 4
/-- Copies on one service stack (R92). -/
def stackCapacity : Nat := 4
/-- Receipt places per host (R128). -/
def receiptCapacity : Nat := 8
/-- Lines in one group (R119). -/
def groupCapacity : Nat := 8
/-- Lines in one member list (R7). -/
def memberCapacity : Nat := 8
/-- Where a repeats field saturates (R6). -/
def repeatLimit : Nat := 255
/-- Longest deadline, grace limit and wake limit, in milliseconds (Table 0-6). -/
def timeLimit : Nat := 1000
/-- Vendor code of IDENT, high byte first (R172). -/
def vendorCode : List Byte := [0x0D, 0x41]
/-- Part code of IDENT, high byte first (R172). -/
def partCode : List Byte := [0x04, 0x16]
/-- Revision of IDENT (R172). -/
def revision : Byte := 0x01
/-- Source-clock cycles from one 10 µs tick to the next (R159). -/
def cyclesUs10 : Nat := 40
/-- Source-clock cycles from one 100 µs tick to the next (R159). -/
def cyclesUs100 : Nat := 400
/-- Source-clock cycles from one millisecond tick to the next (R159). -/
def cyclesMs1 : Nat := 4000
/-- The stability requirement of 1 ms in cycles of the 4 MHz internal oscillator (R160). -/
def stableCycles : Nat := 4000
/-- The loss window of 2 µs in cycles of the 4 MHz internal oscillator (R160). -/
def lossCycles : Nat := 8

end Sys2Proof.Config
end

