-- ==== Sys2Proof/Machine/State.lean ====
section
/-! DEFINITION. The state of the BW416, block by block as Table 0-1 lists them, with the queue of commands that
wait, the reasons a step can stop, and the state after device reset. -/

namespace Sys2Proof.Machine

/-! ## Frames and ports (Chapter 11) -/

/-- Result codes (Table 11-9). -/
inductive ResultCode where
  | ok | none | noresp | notready | badframe | badcmd | badarg | state | denied | disabled | full
  | noroom | notarget | rcptfull | stackfull | order | unknown | late | nottaken | conflict | busy
  deriving DecidableEq, Repr

/-- One response: a result code and a body of 0 to 24 bytes (Table 11-1). -/
structure Response where
  result : ResultCode
  body : List Byte
  deriving DecidableEq, Repr

/-- How far port n has come with the frame it executes (R168). The executing flag reads yes in `received` and
`answered` and no in `idle`. -/
inductive Execution where
  /-- No frame is executing. -/
  | idle
  /-- A valid frame was taken and its command has not acted yet. -/
  | received (c : Cmd) (body : List Byte)
  /-- The command has acted (R168, step 2); its response is not yet in the buffer. -/
  | answered (r : Response)
  deriving DecidableEq, Repr

/-- The state of one host port (Table 11-1). `ignoring` is yes while the transaction in progress has a chip select that fell before
device reset ended (R165, log entry 8). `sdo` is the MODEL's own record of the bytes the port drove in its last
transaction (log entry 6). -/
structure Port where
  buffer : Option Response
  execution : Execution
  dropped : Bool
  ignoring : Bool
  sdo : List Byte
  deriving DecidableEq, Repr

/-! ## Occurrence Store (Chapters 1 and 4) -/

/-- Acknowledgement policy (R27). -/
inductive Policy where
  | all | any
  deriving DecidableEq, Repr

/-- Copy states (Table 4-1). -/
inductive CopyState where
  | pending | parked | taken | overdue | stale | acked | expired | withdrawn
  deriving DecidableEq, Repr

/-- One host's copy of a record (R9, R60). A timer that the copy does not have is `none`; a deadline count is held,
and does not run, while the copy is PARKED (R64). -/
structure Copy where
  state : CopyState
  deadline : Option Nat
  grace : Option Nat
  escalation : Bool
  deriving DecidableEq, Repr

/-- Outcomes of a retired record (Table 1-4). -/
inductive RecordOutcome where
  | done | partially | expired | withdrawn
  deriving DecidableEq, Repr

/-- Receipt states of a POSTED record (Table 1-3). -/
inductive ReceiptState where
  | none | reserved | void
  deriving DecidableEq, Repr

/-- Record kinds (Table 1-2). -/
inductive Kind where
  | line | group | system | posted
  deriving DecidableEq, Repr

/-- The kind of a record with the fields that only this kind has (Table 1-2). -/
inductive Particulars where
  | line
  | group (members : List LineId) (isOpen : Bool)
  | system (subject : Option HostId)
  | posted (payload : BitVec 16) (poster : HostId) (receipt : ReceiptState)
  deriving DecidableEq, Repr

/-- An occurrence record (Table 1-3). Its ID is the slot's number with the slot's generation (R1). `birth` is the
MODEL's own number of the record's creation, from which the newest record of a source is told (R47, log entry 7). -/
structure Record where
  source : SourceId
  particulars : Particulars
  priority : Nat
  policy : Policy
  deadline : Nat
  fallback : Option HostId
  deepWake : Bool
  arrival : Time
  delayed : Bool
  repeats : Nat
  escalated : Bool
  covered : Option HostId
  purged : Bool
  copies : Vector (Option Copy) 4
  birth : Nat
  deriving DecidableEq, Repr

/-- A record slot: FREE when `record` is `none`, LIVE when it holds a record (R1). -/
structure Slot where
  generation : BitVec 8
  record : Option Record
  deriving DecidableEq, Repr

/-- The Occurrence Store (Table 1-1). `births` numbers the next record created (log entry 7). -/
structure Store where
  slots : Vector Slot 48
  generalLive : Nat
  systemLive : Nat
  births : Nat
  deriving DecidableEq, Repr

/-! ## Route Table and wait list (Chapters 2 and 3) -/

/-- The writable fields of a route (Table 2-1). -/
structure RouteConfig where
  enabled : Bool
  owner : HostId
  targets : HostSet
  priority : Nat
  policy : Policy
  depth : Nat
  deadline : Nat
  fallback : Option HostId
  deepWake : Bool
  posters : HostSet
  deriving DecidableEq, Repr

/-- The last outcome of a route (R30). -/
inductive LastOutcome where
  | none
  | ended (o : RecordOutcome)
  | notarget
  deriving DecidableEq, Repr

/-- A route entry: its writable fields, and the two fields that the Store keeps (R30). -/
structure Route where
  config : RouteConfig
  liveCount : Nat
  lastOutcome : LastOutcome
  deriving DecidableEq, Repr

/-- A wait entry (Table 3-4). -/
structure WaitEntry where
  source : SourceId
  pendingCount : Nat
  members : List LineId
  repeats : Nat
  deriving DecidableEq, Repr

/-! ## Hosts, delivery and posting (Chapters 5, 8 and 9) -/

/-- Host states (R140). -/
inductive HostState where
  | offline | run | deep | waking | lost
  deriving DecidableEq, Repr

/-- The host record of one host (Table 9-1). -/
structure HostRecord where
  state : HostState
  graceLimit : Nat
  wakeLimit : Nat
  wakeTimer : Option Nat
  /-- WAKE_n is asserted. -/
  wakeLine : Bool
  deriving DecidableEq, Repr

/-- The delivery state of one host (Table 5-1). A queue or stack names a copy by its record's slot; the queue is
front first and the stack is TOP first. -/
structure Delivery where
  queue : List SlotId
  stack : List SlotId
  runningLevel : Nat
  threshold : Nat
  accepting : Bool
  /-- ATTN_n is asserted. -/
  attnLine : Bool
  deriving DecidableEq, Repr

/-- A receipt (Table 8-2). -/
structure Receipt where
  generation : BitVec 8
  slot : SlotId
  source : SourceId
  outcome : RecordOutcome
  time : Time
  deriving DecidableEq, Repr

/-- The Post Unit's state for one host (Table 8-1), the oldest receipt first. -/
structure PostUnit where
  receipts : List Receipt
  reservations : Nat
  deriving DecidableEq, Repr

/-! ## Line Unit (Chapters 6 and 7) -/

/-- Line modes (Table 6-1). -/
inductive Mode where
  | off | rise | fall | both | high | low
  deriving DecidableEq, Repr

/-- The configuration of a line (Table 6-1). The member set of group g is the set of lines whose `group` names it
(R119). -/
structure LineConfig where
  mode : Mode
  period : Period
  q : Nat
  group : Option GroupId
  deriving DecidableEq, Repr

/-- The qualification state of a line (Table 6-1). -/
structure Qualification where
  lastSample : Bool
  level : Bool
  disagreement : Nat
  firstPending : Bool
  deriving DecidableEq, Repr

/-- One event line. -/
structure Line where
  config : LineConfig
  qual : Qualification
  deriving DecidableEq, Repr

/-! ## Clock Supervisor and Timebase (Chapter 10) -/

/-- Clock states (R161). -/
inductive ClockState where
  | start | ref | backup
  deriving DecidableEq, Repr

/-- The Clock Supervisor's state (Table 10-1). `refPresent` is the REFCLK condition; `stability` and `lossWindow` count
internal-oscillator cycles, `stability` reading `Config.stableCycles` when stable; the three dividers count cycles of the
selected source clock. -/
structure Clock where
  state : ClockState
  refPresent : Bool
  stability : Nat
  lossWindow : Nat
  dividerUs10 : Nat
  dividerUs100 : Nat
  dividerMs1 : Nat
  timebase : Time
  deriving DecidableEq, Repr

/-- The whole state. `pending` is the queue of commands that wait, first in, first out. -/
structure State where
  store : Store
  routes : Vector Route 64
  waitList : List WaitEntry
  hosts : Vector HostRecord 4
  delivery : Vector Delivery 4
  posts : Vector PostUnit 4
  lines : Vector Line 24
  ports : Vector Port 4
  clock : Clock
  administrator : HostId
  pending : List Instr
  deriving DecidableEq, Repr

/-! ## Stops -/

/-- The block stops with no fault: every step of the table has an effect in every state, so nothing raises
one and the type is empty (safe: no claim can rest on a stop). -/
inductive Fault where
  deriving DecidableEq, Repr

/-- Why a step has no meaning. -/
inductive Refusal where
  /-- Raised by an arm of `exec` whose command has no meaning yet, naming its mnemonic. No arm raises it. Safe: the machine
  stops. -/
  | notModelled (mnemonic : String)
  deriving DecidableEq, Repr

/-! ## Device reset -/

/-- The route entry at device reset, owned by the administrator `adm` (Table 2-1). -/
def Route.atReset (adm : HostId) : Route :=
  { config :=
      { enabled := false, owner := adm, targets := 0, priority := 1, policy := .all, depth := 1,
        deadline := 0, fallback := none, deepWake := false, posters := 0 }
    liveCount := 0
    lastOutcome := .none }

/-- The line at device reset (Table 6-1). -/
def Line.atReset : Line :=
  { config := { mode := .off, period := .us100, q := 3, group := none }
    qual := { lastSample := false, level := false, disagreement := 0, firstPending := false } }

/-- The host record at device reset (Table 9-1). -/
def HostRecord.atReset : HostRecord :=
  { state := .offline, graceLimit := 1000, wakeLimit := 1000, wakeTimer := none, wakeLine := false }

/-- The delivery state at device reset (Table 5-1). -/
def Delivery.atReset : Delivery :=
  { queue := [], stack := [], runningLevel := 0, threshold := 0, accepting := false, attnLine := false }

/-- The port at device reset with its chip select high (Table 11-1, R165). -/
def Port.atReset : Port :=
  { buffer := none, execution := .idle, dropped := false, ignoring := false, sdo := [] }

/-- The Clock Supervisor at device reset (Table 10-1). -/
def Clock.atReset : Clock :=
  { state := .start, refPresent := false, stability := 0, lossWindow := 0, dividerUs10 := 0,
    dividerUs100 := 0, dividerMs1 := 0, timebase := 0 }

/-- Every block at its reset values, with the administrator that the straps name and every chip select high (R139, R156). -/
def State.resetWith (adm : HostId) : State :=
  { store :=
      { slots := Vector.replicate 48 { generation := 0, record := none }
        generalLive := 0, systemLive := 0, births := 0 }
    routes := Vector.replicate 64 (Route.atReset adm)
    waitList := []
    hosts := Vector.replicate 4 HostRecord.atReset
    delivery := Vector.replicate 4 Delivery.atReset
    posts := Vector.replicate 4 { receipts := [], reservations := 0 }
    lines := Vector.replicate 24 Line.atReset
    ports := Vector.replicate 4 Port.atReset
    clock := Clock.atReset
    administrator := adm
    pending := [] }

/-- The machine right after device reset, with the straps at 00 (log entry 1) and every chip select high (log entry 8):
every other value is the one the tables give. -/
def State.reset : State := State.resetWith 0

end Sys2Proof.Machine
end

