-- ==== Sys2Proof/Machine/Ops.lean ====
section
/-! DEFINITION. The named reads and writes of the state: every block's items through one accessor and one update
each. -/

namespace Sys2Proof.Machine

/-! ## Indexed items -/

/-- Item `i` of a fixed number of like items. -/
def vget {α : Type} {n : Nat} (v : Vector α n) (i : Fin n) : α := v[i.val]

/-- The items with item `i` replaced by `x`. -/
def vset {α : Type} {n : Nat} (v : Vector α n) (i : Fin n) (x : α) : Vector α n := v.set i.val x

/-- The items `f 0`, `f 1`, …; irreducible, so that no unification computes the items. -/
@[irreducible] def vof {α : Type} {n : Nat} (f : Fin n → α) : Vector α n := Vector.ofFn f

/-- H0 to H3 in ascending order. -/
def allHosts : List HostId := List.finRange 4

/-- Slots 0 to 47 in ascending order. -/
def allSlots : List SlotId := List.finRange 48

/-- EV0 to EV23 in ascending order. -/
def allLines : List LineId := List.finRange 24

/-- `h` is in the set (Table 11-5). -/
def hostIn (hs : HostSet) (h : HostId) : Bool := hs.getLsbD h.val

/-- One more, saturating at 255 (R6). -/
def addRepeat (n : Nat) : Nat := if n < Config.repeatLimit then n + 1 else n

/-! ## Reading and writing the blocks -/

def State.slot (s : State) (i : SlotId) : Slot := vget s.store.slots i

def State.setSlot (s : State) (i : SlotId) (x : Slot) : State :=
  { s with store := { s.store with slots := vset s.store.slots i x } }

/-- The record in the slot, if the slot is LIVE (R1). -/
def State.record? (s : State) (i : SlotId) : Option Record := (s.slot i).record

/-- Write the record of slot `i`, leaving the generation. -/
def State.setRecord (s : State) (i : SlotId) (r : Record) : State :=
  s.setSlot i { s.slot i with record := some r }

/-- Change the record of slot `i`, if the slot is LIVE. -/
def State.modifyRecord (s : State) (i : SlotId) (f : Record → Record) : State :=
  match s.record? i with
  | none => s
  | some r => s.setRecord i (f r)

def State.route (s : State) (n : SourceId) : Route := vget s.routes n

def State.setRoute (s : State) (n : SourceId) (r : Route) : State :=
  { s with routes := vset s.routes n r }

def State.host (s : State) (h : HostId) : HostRecord := vget s.hosts h

def State.setHost (s : State) (h : HostId) (r : HostRecord) : State :=
  { s with hosts := vset s.hosts h r }

def State.setHostState (s : State) (h : HostId) (x : HostState) : State :=
  s.setHost h { s.host h with state := x }

def State.deliv (s : State) (h : HostId) : Delivery := vget s.delivery h

def State.setDeliv (s : State) (h : HostId) (d : Delivery) : State :=
  { s with delivery := vset s.delivery h d }

def State.postUnit (s : State) (h : HostId) : PostUnit := vget s.posts h

def State.setPostUnit (s : State) (h : HostId) (p : PostUnit) : State :=
  { s with posts := vset s.posts h p }

def State.line (s : State) (n : LineId) : Line := vget s.lines n

def State.setLine (s : State) (n : LineId) (l : Line) : State :=
  { s with lines := vset s.lines n l }

def State.port (s : State) (p : HostId) : Port := vget s.ports p

def State.setPort (s : State) (p : HostId) (x : Port) : State :=
  { s with ports := vset s.ports p x }

/-- The last outcome of route `n` becomes `o`, its other fields staying (R14, R30). -/
def State.setLastOutcome (s : State) (n : SourceId) (o : LastOutcome) : State :=
  s.setRoute n { s.route n with lastOutcome := o }

/-! ## Copies of a record -/

/-- The record's copy for host `h`, if it holds one (R9). -/
def Record.copy (r : Record) (h : HostId) : Option Copy := vget r.copies h

def Record.setCopy (r : Record) (h : HostId) (c : Copy) : Record :=
  { r with copies := vset r.copies h (some c) }

/-- Host `h`'s copy of the record in slot `i`. -/
def State.copy? (s : State) (i : SlotId) (h : HostId) : Option Copy :=
  match s.record? i with
  | none => none
  | some r => r.copy h

/-- Write host `h`'s copy of the record in slot `i`, if the slot is LIVE. -/
def State.setCopy (s : State) (i : SlotId) (h : HostId) (c : Copy) : State :=
  s.modifyRecord i (fun r => r.setCopy h c)

/-- ACKED, EXPIRED and WITHDRAWN are terminal (R60). -/
def CopyState.terminal : CopyState → Bool
  | .pending => false
  | .parked => false
  | .taken => false
  | .overdue => false
  | .stale => false
  | .acked => true
  | .expired => true
  | .withdrawn => true

/-- A copy moved to a state in which it has no timer (Table 4-1). -/
def Copy.ended (c : Copy) (x : CopyState) : Copy := { c with state := x, deadline := none, grace := none }

/-- The copy is offered: PENDING or PARKED (R62). -/
def Copy.offered (c : Copy) : Bool :=
  match c.state with
  | .pending => true
  | .parked => true
  | _ => false

/-- The copy is in service: TAKEN, OVERDUE or STALE (R62). -/
def Copy.inService (c : Copy) : Bool :=
  match c.state with
  | .taken => true
  | .overdue => true
  | .stale => true
  | _ => false

/-- Host `h` holds a copy of the record that satisfies `f`. -/
def Record.hasCopy (r : Record) (h : HostId) (f : Copy → Bool) : Bool :=
  match r.copy h with
  | none => false
  | some c => f c

/-- Every copy of the record is terminal (R11). -/
def Record.finished (r : Record) : Bool :=
  allHosts.all (fun h => !r.hasCopy h (fun c => !c.state.terminal))

/-- Some copy of the record is ACKED. -/
def Record.someAcked (r : Record) : Bool :=
  allHosts.any (fun h => r.hasCopy h (fun c => c.state == .acked))

/-- The record is satisfied (R73): under ANY, one of its copies is ACKED. -/
def Record.satisfied (r : Record) : Bool := r.policy == .any && r.someAcked

/-! ## Sources and kinds -/

/-- Sources 28 to 31 are system sources (Table 0-3). -/
def isSystem (n : SourceId) : Bool := decide (28 ≤ n.val) && decide (n.val ≤ 31)

/-- Sources 24 to 27 are group sources (Table 0-3). -/
def isGroup (n : SourceId) : Bool := decide (24 ≤ n.val) && decide (n.val ≤ 27)

/-- The line of a line source 0 to 23 (Table 0-3). -/
def lineOfSource (n : SourceId) : Option LineId :=
  if h : n.val < 24 then some ⟨n.val, h⟩ else none

/-- Line source n of line n (Table 0-3). -/
def lineSource (n : LineId) : SourceId := ⟨n.val, by omega⟩

/-- Group source 24 + g (Table 0-3). -/
def groupSource (g : GroupId) : SourceId := ⟨24 + g.val, by omega⟩

/-- Source 28, REFLOST (Table 0-3). -/
def reflostSource : SourceId := 28
/-- Source 29, HOSTLOST (Table 0-3). -/
def hostlostSource : SourceId := 29
/-- Source 30, POOLWAIT (Table 0-3). -/
def poolwaitSource : SourceId := 30
/-- Source 31, HOSTBACK (Table 0-3). -/
def hostbackSource : SourceId := 31

/-- The kind of a record (Table 1-2). -/
def Particulars.kind : Particulars → Kind
  | .line => .line
  | .group _ _ => .group
  | .system _ => .system
  | .posted _ _ _ => .posted

/-- The record is a GROUP record whose open flag is yes (R8). -/
def Record.isOpen (r : Record) : Bool :=
  match r.particulars with
  | .group _ o => o
  | _ => false

/-! ## Host states -/

/-- RUN, DEEP and WAKING: attached, and usable (Table 0-4). -/
def HostState.usable : HostState → Bool
  | .offline => false
  | .run => true
  | .deep => true
  | .waking => true
  | .lost => false

def State.usable (s : State) (h : HostId) : Bool := (s.host h).state.usable

end Sys2Proof.Machine
end

