-- ==== Sys2Proof/Machine/Flags.lean ====
section
/-! DEFINITION. The conditions that the part shows to its hosts: the head of a queue and its eligibility, the
ATTN_n and WAKE_n lines, and the flags byte of a response header. -/

namespace Sys2Proof.Machine

/-- The priority of the copies of the record in slot `i`: the record's priority (R87). -/
def State.priorityOf (s : State) (i : SlotId) : Nat :=
  match s.record? i with
  | none => 0
  | some r => r.priority

/-- Host `h`'s copy of the record in slot `i` is PENDING. -/
def State.isPending (s : State) (h : HostId) (i : SlotId) : Bool :=
  match s.copy? i h with
  | none => false
  | some c => c.state == .pending

/-- The head of host `h`'s offer queue: its first PENDING copy (R89). -/
def State.head? (s : State) (h : HostId) : Option SlotId :=
  (s.deliv h).queue.find? (s.isPending h)

/-- A copy at slot `i` is above host `h`'s threshold and above its running level (R89). -/
def State.aboveGate (s : State) (h : HostId) (i : SlotId) : Bool :=
  decide ((s.deliv h).threshold < s.priorityOf i) && decide ((s.deliv h).runningLevel < s.priorityOf i)

/-- Host `h` has a head and it is eligible (R89). -/
def State.eligibleHead (s : State) (h : HostId) : Bool :=
  match s.head? h with
  | none => false
  | some i => s.aboveGate h i

/-- The four conditions under which ATTN_n is asserted (R101). -/
def State.attnCondition (s : State) (h : HostId) : Bool :=
  ((s.host h).state == .run) && (s.deliv h).accepting
    && decide ((s.deliv h).stack.length < Config.stackCapacity) && s.eligibleHead h

/-- WAKE_n is asserted exactly while host n is WAKING (R155). -/
def State.wakeCondition (s : State) (h : HostId) : Bool := (s.host h).state == .waking

/-- Set the ATTN and WAKE lines by their conditions, at the end of an event (R101, R155). -/
def State.driveLines (s : State) : State :=
  { s with
    delivery := vof (fun h => { s.deliv h with attnLine := s.attnCondition h })
    hosts := vof (fun h => { s.host h with wakeLine := s.wakeCondition h }) }

/-- The host code of the flags byte (R170, Table 11-4). -/
def State.hostCode (s : State) (h : HostId) : Nat :=
  match (s.host h).state with
  | .offline => 0
  | .run => if (s.deliv h).attnLine then 5 else 1
  | .deep => 2
  | .waking => 3
  | .lost => 4

/-- The flags byte of a response on port `p`: waiting receipts in bits 7 to 4, the dropped-request flag in bit 3, the
host code in bits 2 to 0 (Table 11-4). -/
def State.flagsByte (s : State) (p : HostId) : Byte :=
  BitVec.ofNat 8
    ((s.postUnit p).receipts.length * 16 + (if (s.port p).dropped then 8 else 0) + s.hostCode p)

end Sys2Proof.Machine
end

