-- ==== Sys2Proof/Machine/Store.lean ====
section
/-! DEFINITION. The Occurrence Store's and the Delivery Unit's shared operations: places in queues and on stacks,
allocation, the usable targets, the creation of records and their copies, waking a host. -/

namespace Sys2Proof.Machine

/-! ## Offer queues and service stacks -/

/-- Put `i` directly after the last entry whose priority is at least `i`'s, or at the front if there is none (R87). -/
def insertByPriority (prio : SlotId → Nat) (i : SlotId) : List SlotId → List SlotId
  | [] => [i]
  | x :: xs =>
    if (x :: xs).any (fun y => decide (prio i ≤ prio y)) then x :: insertByPriority prio i xs
    else i :: x :: xs

/-- Insert the copy at slot `i` into host `h`'s offer queue (R87). -/
def State.enqueue (s : State) (h : HostId) (i : SlotId) : State :=
  s.setDeliv h { s.deliv h with queue := insertByPriority s.priorityOf i (s.deliv h).queue }

/-- Remove the copy at slot `i` from host `h`'s offer queue, closing the gap (R88). -/
def State.dequeue (s : State) (h : HostId) (i : SlotId) : State :=
  s.setDeliv h { s.deliv h with queue := (s.deliv h).queue.filter (fun x => x != i) }

/-- The running level that a stack gives: the priority of its top, or 0 (R92). -/
def State.levelOf (s : State) : List SlotId → Nat
  | [] => 0
  | i :: _ => s.priorityOf i

/-- Move the copy at slot `i` from host `h`'s queue to the top of its stack and set the running level (R95, step 1). -/
def State.pushStack (s : State) (h : HostId) (i : SlotId) : State :=
  (s.dequeue h i).setDeliv h
    { (s.dequeue h i).deliv h with stack := i :: (s.deliv h).stack, runningLevel := s.priorityOf i }

/-- Pop the top of host `h`'s stack and set the running level (R70, step 2). -/
def State.popStack (s : State) (h : HostId) : State :=
  s.setDeliv h
    { s.deliv h with
      stack := (s.deliv h).stack.tail
      runningLevel := s.levelOf (s.deliv h).stack.tail }

/-- Empty host `h`'s queue and stack and set its running level to 0 (R86). -/
def State.clearDelivery (s : State) (h : HostId) : State :=
  s.setDeliv h { s.deliv h with queue := [], stack := [], runningLevel := 0 }

/-! ## Allocation -/

/-- The lowest-numbered FREE slot (R4). -/
def State.lowestFree (s : State) : Option SlotId := allSlots.find? (fun i => (s.record? i).isNone)

/-- The record in slot `i`, if there is one, is of source `n`. -/
def State.holdsSource (s : State) (n : SourceId) (i : SlotId) : Bool :=
  match s.record? i with
  | none => false
  | some r => r.source == n

/-- The slots that hold a live record of source `n`, ascending. -/
def State.slotsOf (s : State) (n : SourceId) : List SlotId := allSlots.filter (s.holdsSource n)

/-- The Store grants a request of source `n` (R4): for a general source while the general live count is below 44, for a system
source while the source has no live record. -/
def State.grants (s : State) (n : SourceId) : Bool :=
  if isSystem n then (s.slotsOf n).isEmpty else decide (s.store.generalLive < Config.generalCapacity)

/-- The slot that the Store allocates for source `n`, or `none` where it refuses (R4). -/
def State.allocate? (s : State) (n : SourceId) : Option SlotId :=
  if s.grants n then s.lowestFree else none

/-- The class live count of source `n` changed by `f` (R3). -/
def State.countClass (s : State) (n : SourceId) (f : Nat → Nat) : State :=
  if isSystem n then { s with store := { s.store with systemLive := f s.store.systemLive } }
  else { s with store := { s.store with generalLive := f s.store.generalLive } }

/-- The live count of route `n` changed by `f` (R14). -/
def State.countRoute (s : State) (n : SourceId) (f : Nat → Nat) : State :=
  s.setRoute n { s.route n with liveCount := f (s.route n).liveCount }

/-! ## Targets -/

/-- The hosts that receive a copy, and whether the record is fallback-only: the usable targets if there are any, else the
usable fallback host, else nobody (R48). -/
def State.recipients (s : State) (c : RouteConfig) : Option (List HostId × Bool) :=
  match allHosts.filter (fun h => hostIn c.targets h && s.usable h) with
  | h :: hs => some (h :: hs, false)
  | [] =>
    match c.fallback with
    | none => none
    | some f => if s.usable f then some ([f], true) else none

/-! ## Creating copies and records -/

/-- The state of a new copy by its host's state and the record's deep-wake flag (Table 3-3). A host in OFFLINE or LOST
is not usable and is never asked for. -/
def copyStateAt (x : HostState) (deepWake : Bool) : CopyState :=
  match x with
  | .deep => if deepWake then .pending else .parked
  | .waking => if deepWake then .pending else .parked
  | .run => .pending
  | .offline => .pending
  | .lost => .pending

/-- A new copy of record `r` for host `h` (R50, R60); `esc` marks an escalation copy, which has no deadline. -/
def State.newCopy (s : State) (r : Record) (h : HostId) (esc : Bool) : Copy :=
  { state := copyStateAt (s.host h).state r.deepWake
    deadline := if esc || r.deadline == 0 then none else some r.deadline
    grace := none
    escalation := esc }

/-- Move host `h` from DEEP to WAKING if its copy at slot `i` is PENDING, starting the wake timer at the wake limit
(R148). -/
def State.wakeFor (s : State) (h : HostId) (i : SlotId) : State :=
  if (s.host h).state == .deep && s.isPending h i then
    s.setHost h { s.host h with state := .waking, wakeTimer := some (s.host h).wakeLimit }
  else s

/-- The record of source `n` as its route stands at the event, before its copies are made (R5). -/
def State.newRecord (s : State) (n : SourceId) (k : Particulars) (delayed : Bool) (repeats : Nat) : Record :=
  { source := n
    particulars := k
    priority := (s.route n).config.priority
    policy := (s.route n).config.policy
    deadline := (s.route n).config.deadline
    fallback := (s.route n).config.fallback
    deepWake := (s.route n).config.deepWake
    arrival := s.clock.timebase
    delayed := delayed
    repeats := repeats
    escalated := false
    covered := none
    purged := false
    copies := vof (fun _ => none)
    birth := s.store.births }

/-- The record with one new copy for each host of `hosts`; a fallback-only record (`esc`) is created escalated (R5). -/
def State.withCopies (s : State) (r : Record) (hosts : List HostId) (esc : Bool) : Record :=
  { r with
    escalated := esc
    copies := vof (fun h => if hosts.contains h then some (s.newCopy r h esc) else none) }

/-- Take the next creation number (log entry 7). -/
def State.countBirth (s : State) : State := { s with store := { s.store with births := s.store.births + 1 } }

/-- Create record `r` in slot `i` with a copy for each host of `hosts`, in the order of R51. -/
def State.createRecord (s : State) (i : SlotId) (r : Record) (hosts : List HostId) (esc : Bool) : State :=
  let stored := ((s.countClass r.source (· + 1)).countBirth.setRecord i (s.withCopies r hosts esc)).countRoute
    r.source (· + 1)
  let queued := hosts.foldl (fun t h => t.enqueue h i) stored
  hosts.foldl (fun t h => t.wakeFor h i) queued

/-! ## Newest and open records -/

/-- The later created of two records of a source (R47). -/
def State.newer (s : State) (i j : SlotId) : SlotId :=
  match s.record? i, s.record? j with
  | some a, some b => if a.birth < b.birth then j else i
  | _, _ => i

/-- The newest live record of source `n`: the one created last (R47). -/
def State.newest? (s : State) (n : SourceId) : Option SlotId :=
  match s.slotsOf n with
  | [] => none
  | i :: is => some (is.foldl s.newer i)

/-- The record in slot `i` is an open GROUP record. -/
def State.isOpenAt (s : State) (i : SlotId) : Bool :=
  match s.record? i with
  | none => false
  | some r => r.isOpen

/-- The open live record of source `n`, if there is one (R45). -/
def State.openRecord? (s : State) (n : SourceId) : Option SlotId := (s.slotsOf n).find? s.isOpenAt

/-- A repeat counted into a record (R6). -/
def Record.addRepeat (r : Record) : Record := { r with repeats := Machine.addRepeat r.repeats }

/-- A member edge counted into a member list and a repeats field, by the three cases of R45. -/
def mergeMember (m : LineId) (members : List LineId) (repeats : Nat) : List LineId × Nat :=
  if members.contains m then (members, addRepeat repeats)
  else if members.length < Config.memberCapacity then (members ++ [m], repeats)
  else (members, addRepeat repeats)

/-- A member edge merged into an open GROUP record (R45). -/
def Record.merge (r : Record) (m : LineId) : Record :=
  match r.particulars with
  | .group members o =>
    { r with
      particulars := .group (mergeMember m members r.repeats).1 o
      repeats := (mergeMember m members r.repeats).2 }
  | _ => r

end Sys2Proof.Machine
end

