-- ==== Sys2Proof/Machine/Admission.lean ====
section
/-! DEFINITION. The Admission Controller (Chapter 3): raw events, the admission sequence, the wait list and its handoff. -/

namespace Sys2Proof.Machine

/-- A raw event with what it carries (Table 3-1). -/
inductive RawEvent where
  | line (n : LineId)
  | group (g : GroupId) (member : LineId)
  | reflost
  | hostlost (subject : HostId)
  | poolwait
  | hostback (subject : HostId)
  deriving DecidableEq, Repr

/-- The source of a raw event (Table 0-3). -/
def RawEvent.source : RawEvent → SourceId
  | .line n => lineSource n
  | .group g _ => groupSource g
  | .reflost => reflostSource
  | .hostlost _ => hostlostSource
  | .poolwait => poolwaitSource
  | .hostback _ => hostbackSource

/-- The kind-specific fields of a record made from a raw event (R5, Table 1-2). -/
def RawEvent.particulars : RawEvent → Particulars
  | .line _ => .line
  | .group _ m => .group [m] true
  | .reflost => .system none
  | .hostlost h => .system (some h)
  | .poolwait => .system none
  | .hostback h => .system (some h)

/-- The wait entry that a refused raw event makes (R49). -/
def RawEvent.waitEntry (ev : RawEvent) : WaitEntry :=
  { source := ev.source
    pendingCount := 1
    members := match ev with
      | .group _ m => [m]
      | _ => []
    repeats := 0 }

/-- Source `n` has a wait entry. -/
def State.waits (s : State) (n : SourceId) : Bool := s.waitList.any (fun e => e.source == n)

/-- A raw event counted into the wait entry of its source (R46); `room` is depth minus live count, 0 where that is
negative. -/
def WaitEntry.count (e : WaitEntry) (ev : RawEvent) (room : Nat) : WaitEntry :=
  match ev with
  | .group _ m =>
    { e with members := (mergeMember m e.members e.repeats).1, repeats := (mergeMember m e.members e.repeats).2 }
  | _ =>
    if e.pendingCount < room then { e with pendingCount := e.pendingCount + 1 }
    else { e with repeats := addRepeat e.repeats }

/-- Admission step 3 (R46). -/
def State.countWaiting (s : State) (ev : RawEvent) : State :=
  { s with
    waitList := s.waitList.map (fun e =>
      if e.source == ev.source then
        e.count ev ((s.route ev.source).config.depth - (s.route ev.source).liveCount)
      else e) }

/-- Admission step 4: a repeat into the newest live record (R47). -/
def State.coalesce (s : State) (n : SourceId) : State :=
  match s.newest? n with
  | none => s
  | some i => s.modifyRecord i Record.addRepeat

/-- Admission step 6, refused: a general source joins the tail of the wait list (R49). A system source is never
refused there (R49) and does not wait. -/
def State.joinWaitList (s : State) (ev : RawEvent) : State :=
  if isSystem ev.source then s else { s with waitList := s.waitList ++ [ev.waitEntry] }

/-- Admission steps 5 to 7 (R48, R49, R50). -/
def State.admitNew (s : State) (ev : RawEvent) : State :=
  match s.recipients (s.route ev.source).config with
  | none => s.setLastOutcome ev.source .notarget
  | some (hosts, esc) =>
    match s.allocate? ev.source with
    | none => s.joinWaitList ev
    | some i => s.createRecord i (s.newRecord ev.source ev.particulars false 0) hosts esc

/-- Admission steps 3 to 7. -/
def State.admitClosed (s : State) (ev : RawEvent) : State :=
  if s.waits ev.source then s.countWaiting ev
  else if (s.route ev.source).config.depth ≤ (s.route ev.source).liveCount then s.coalesce ev.source
  else s.admitNew ev

/-- Admission steps 2 to 7: a member edge of a group with an open record merges into it (R45). -/
def State.admitEnabled (s : State) (ev : RawEvent) : State :=
  match ev with
  | .group g m =>
    match s.openRecord? (groupSource g) with
    | some i => s.modifyRecord i (fun r => r.merge m)
    | none => s.admitClosed ev
  | _ => s.admitClosed ev

/-- The admission sequence of one raw event (Table 3-2), without the POOLWAIT event it may cause. -/
def State.admitOne (s : State) (ev : RawEvent) : State :=
  if (s.route ev.source).config.enabled then s.admitEnabled ev else s

/-- Admission of a raw event: where it took the wait list from empty to non-empty, POOLWAIT is raised and admitted
within the same event, once the entry is on the list (R43, R49). -/
def State.admission (s : State) (ev : RawEvent) : State :=
  let t := s.admitOne ev
  if s.waitList.isEmpty && !t.waitList.isEmpty then t.admitOne .poolwait else t

/-! ## The wait list -/

/-- Remove the entry of source `n` with all it holds (R57). -/
def State.dropWaiting (s : State) (n : SourceId) : State :=
  { s with waitList := s.waitList.filter (fun e => e.source != n) }

/-- A served entry is removed when its pending count has reached 0 and moves to the tail otherwise (R56). -/
def requeue (rest : List WaitEntry) (e : WaitEntry) : List WaitEntry :=
  if e.pendingCount = 0 then rest else rest ++ [e]

/-- The kind-specific fields of the record made from a wait entry (R55). -/
def WaitEntry.particulars (e : WaitEntry) : Particulars :=
  if isGroup e.source then .group e.members true else .line

/-- The entry after it gave a record: its repeats and members have passed into the record (R55). -/
def WaitEntry.transferred (e : WaitEntry) : WaitEntry :=
  { e with pendingCount := e.pendingCount - 1, members := [], repeats := 0 }

/-- The entry after it was served NOTARGET (R55). -/
def WaitEntry.refused (e : WaitEntry) : WaitEntry := { e with pendingCount := e.pendingCount - 1 }

/-- The handoff of freed general capacity (R54 to R56), with a bound on the entries it serves: each round removes an entry or
lowers a pending count. -/
def handoffRounds : Nat → State → State
  | 0, s => s
  | k + 1, s =>
    match s.waitList with
    | [] => s
    | e :: rest =>
      if !(s.route e.source).config.enabled
          || decide ((s.route e.source).config.depth ≤ (s.route e.source).liveCount) then
        handoffRounds k { s with waitList := rest }
      else
        match s.recipients (s.route e.source).config with
        | none =>
          handoffRounds k
            { s.setLastOutcome e.source .notarget with waitList := requeue rest e.refused }
        | some (hosts, esc) =>
          match s.allocate? e.source with
          | none => s
          | some i =>
            { s.createRecord i (s.newRecord e.source e.particulars true e.repeats) hosts esc with
              waitList := requeue rest e.transferred }

/-- Rounds enough to reach the handoff's end (R56). -/
def handoffBound (es : List WaitEntry) : Nat := (es.map (fun e => e.pendingCount + 1)).sum

/-- The wait-list handoff (R54). -/
def State.handoff (s : State) : State := handoffRounds (handoffBound s.waitList) s

end Sys2Proof.Machine
end

