-- ==== Sys2Proof/Machine/Copies.lean ====
section
/-! DEFINITION. The life of copies and the end of records (Chapters 1, 4 and 9): outcome, retirement, withdrawal,
escalation, the reservations of a poster, host cleanup, loss. -/

namespace Sys2Proof.Machine

/-! ## Outcome and retirement -/

/-- The copy with the escalation mark is ACKED (R13). -/
def Record.escalationAcked (r : Record) : Bool :=
  allHosts.any (fun h => r.hasCopy h (fun c => c.escalation && c.state == .acked))

/-- Host `h`'s copy does not keep an ALL record from DONE: absent, ACKED, or the covered host's copy EXPIRED while
the escalation copy is ACKED (R13). -/
def Record.copyCounts (r : Record) (h : HostId) : Bool :=
  match r.copy h with
  | none => true
  | some c => c.state == .acked || (c.state == .expired && r.covered == some h && r.escalationAcked)

/-- The outcome of a record at retirement (Table 1-4, R12, R13). -/
def Record.outcome (r : Record) : RecordOutcome :=
  match r.policy with
  | .any => if r.someAcked then .done else if r.purged then .withdrawn else .expired
  | .all =>
    if allHosts.all r.copyCounts then .done
    else if r.someAcked then .partially
    else if r.purged then .withdrawn
    else .expired

/-- HIGH and LOW are level modes (R108). -/
def Mode.isLevel : Mode → Bool
  | .off => false
  | .rise => false
  | .fall => false
  | .both => false
  | .high => true
  | .low => true

/-- Level `b` is the active level of the mode (Table 6-1, note 2). -/
def Mode.isActive (m : Mode) (b : Bool) : Bool :=
  match m with
  | .high => b
  | .low => !b
  | _ => false

/-- The line is in a level mode with its qualified level active and no first sample pending (R109, R110). -/
def Line.conditionPresent (l : Line) : Bool := !l.qual.firstPending && l.config.mode.isActive l.qual.level

/-- The level re-check of line `n` (R109). DESIGN CHOICE (log entry 20): the last sentence of R116 has a retirement raise nothing in
either order with a change to the inactive level; a retirement taken first finds the level still active, and R109 and the third row
of the table in R118 raise the event, which the model follows. -/
def State.levelRecheck (s : State) (n : LineId) : State :=
  if (s.line n).conditionPresent && (s.route (lineSource n)).liveCount == 0 then s.admission (.line n) else s

/-- Retirement, step 2: the route's live count falls and its last outcome is set (R14). -/
def State.closeRoute (s : State) (r : Record) : State :=
  (s.countRoute r.source (· - 1)).setLastOutcome r.source (.ended r.outcome)

/-- Retirement, step 3: a RESERVED record's receipt goes to its poster in place of the reservation (R133). -/
def State.giveReceipt (s : State) (i : SlotId) (r : Record) : State :=
  match r.particulars with
  | .posted _ poster .reserved =>
    s.setPostUnit poster
      { receipts := (s.postUnit poster).receipts ++
          [{ generation := (s.slot i).generation, slot := i, source := r.source, outcome := r.outcome,
             time := s.clock.timebase }]
        reservations := (s.postUnit poster).reservations - 1 }
  | _ => s

/-- Retirement, step 4: the slot becomes FREE, its generation advances and its class's live count falls (R16). -/
def State.freeSlot (s : State) (i : SlotId) (r : Record) : State :=
  (s.setSlot i { generation := (s.slot i).generation + 1, record := none }).countClass r.source (· - 1)

/-- Retirement, step 5: a freed general record offers its capacity to the wait list (R54). -/
def State.offerFreed (s : State) (r : Record) : State := if isSystem r.source then s else s.handoff

/-- Retirement, step 6: the level re-check of a LINE record's line (R109). -/
def State.recheckLine (s : State) (r : Record) : State :=
  match lineOfSource r.source with
  | none => s
  | some n => s.levelRecheck n

/-- Steps 2 to 4 of retirement (R15). -/
def State.closeRecord (s : State) (i : SlotId) (r : Record) : State :=
  ((s.closeRoute r).giveReceipt i r).freeSlot i r

/-- The retirement of record `r` in slot `i`, in the order of R15. -/
def State.retire (s : State) (i : SlotId) (r : Record) : State :=
  ((s.closeRecord i r).offerFreed r).recheckLine r

/-- The judgement of retirement: a record with no non-terminal copy retires (R11). -/
def State.judge (s : State) (i : SlotId) : State :=
  match s.record? i with
  | none => s
  | some r => if r.finished then s.retire i r else s

/-! ## Withdrawal -/

/-- Withdrawal of one copy (R74). -/
def State.withdrawCopy (s : State) (i : SlotId) (h : HostId) : State :=
  match s.copy? i h with
  | none => s
  | some c =>
    match c.state with
    | .pending => (s.setCopy i h (c.ended .withdrawn)).dequeue h i
    | .parked => (s.setCopy i h (c.ended .withdrawn)).dequeue h i
    | .taken => s.setCopy i h (c.ended .stale)
    | .overdue => s.setCopy i h (c.ended .stale)
    | _ => s

/-- Withdrawal of the record in slot `i`, in ascending host order (R74). -/
def State.withdraw (s : State) (i : SlotId) : State := allHosts.foldl (fun t h => t.withdrawCopy i h) s

/-- Set the purged flag (R74). -/
def State.markPurged (s : State) (i : SlotId) : State := s.modifyRecord i (fun r => { r with purged := true })

/-! ## Escalation -/

/-- The conditions of a successful escalation to `f`, the host `f` being the one the record copied (R77). -/
def State.mayEscalate (s : State) (r : Record) (f : HostId) : Bool :=
  !r.escalated && !r.satisfied && !r.purged && s.usable f && (r.copy f).isNone

/-- The record with its escalation copy for `f`, `trigger` being the covered host (R78, steps 1 and 2). -/
def State.escalatedRecord (s : State) (r : Record) (f trigger : HostId) : Record :=
  { r.setCopy f (s.newCopy r f true) with escalated := true, covered := some trigger }

/-- An escalation attempt for the record in slot `i` (R77, R78). -/
def State.escalate (s : State) (i : SlotId) (trigger : HostId) : State :=
  match s.record? i with
  | none => s
  | some r =>
    match r.fallback with
    | none => s
    | some f =>
      if s.mayEscalate r f then
        ((s.setRecord i (s.escalatedRecord r f trigger)).enqueue f i).wakeFor f i
      else s

/-! ## Host cleanup and loss -/

/-- A RESERVED record posted by `h` becomes VOID (R136, step 1). -/
def Record.voidFor (r : Record) (h : HostId) : Record :=
  match r.particulars with
  | .posted payload poster .reserved =>
    if poster = h then { r with particulars := .posted payload poster .void } else r
  | _ => r

/-- The Post Unit's part of host cleanup (R136). -/
def State.voidReservations (s : State) (h : HostId) : State :=
  (allSlots.foldl (fun t i => t.modifyRecord i (fun r => r.voidFor h)) s).setPostUnit h
    { receipts := [], reservations := 0 }

/-- Host cleanup of one copy: it ends EXPIRED with escalation attempted, or WITHDRAWN if it was STALE, and retirement is
judged; a terminal copy is passed over (R152, step 2). -/
def State.cleanupCopy (s : State) (h : HostId) (i : SlotId) : State :=
  match s.copy? i h with
  | none => s
  | some c =>
    if c.state.terminal then s
    else if c.state = .stale then (s.setCopy i h (c.ended .withdrawn)).judge i
    else ((s.setCopy i h (c.ended .expired)).escalate i h).judge i

/-- Host cleanup of `h`, which is not usable throughout (R152). -/
def State.cleanup (s : State) (h : HostId) : State :=
  (allSlots.foldl (fun t i => t.cleanupCopy h i) (s.voidReservations h)).clearDelivery h

/-- Entry of host `h` to LOST (R151). DESIGN CHOICE (log entry 23): R157 has the second of two losses at one tick add a repeat to the
HOSTLOST record of the first; where that record retires in the second host's cleanup (R152), or none was made, the second event is
admitted as R153 says. -/
def State.loseHost (s : State) (h : HostId) : State :=
  ((s.setHost h { s.host h with state := .lost, wakeTimer := none }).cleanup h).admission (.hostlost h)

/-! ## Sleep -/

/-- A copy unparked: PENDING again, its count as it was kept (R68). -/
def Copy.unpark (c : Copy) : Copy := if c.state = .parked then { c with state := .pending } else c

/-- A copy parked, its count kept (R68). -/
def Copy.park (c : Copy) : Copy := if c.state = .pending then { c with state := .parked } else c

/-- Change host `h`'s copy of the record by `f`, if it holds one. -/
def Record.modifyCopy (r : Record) (h : HostId) (f : Copy → Copy) : Record :=
  match r.copy h with
  | none => r
  | some c => r.setCopy h (f c)

/-- Change every copy of host `h` by `f`. -/
def State.mapCopies (s : State) (h : HostId) (f : Copy → Copy) : State :=
  { s with
    store := { s.store with
      slots := vof (fun i =>
        { s.slot i with
          record := match s.record? i with
            | none => none
            | some r => some (r.modifyCopy h f) }) } }

/-- The return of a host in DEEP or WAKING to RUN at its first valid frame (R147); a host in another state stays as it is. -/
def State.returnToRun (s : State) (h : HostId) : State :=
  match (s.host h).state with
  | .deep => (s.setHost h { s.host h with state := .run, wakeTimer := none }).mapCopies h Copy.unpark
  | .waking => (s.setHost h { s.host h with state := .run, wakeTimer := none }).mapCopies h Copy.unpark
  | _ => s

end Sys2Proof.Machine
end

