-- ==== Sys2Proof/Machine/Operands.lean ====
section
/-! DEFINITION. The field encodings (Table 11-5), both ways: what the bytes of a request body mean, `none` standing for a value outside
its encoding, and the bytes of a response body. -/

namespace Sys2Proof.Machine

/-! ## Reading request fields -/

/-- Two bytes, most significant first (0.5, item 6). -/
def be16 (hi lo : Byte) : Nat := hi.toNat * 256 + lo.toNat

/-- Two bytes as a 16-bit payload, most significant first (R129). -/
def payloadOf (hi lo : Byte) : BitVec 16 := BitVec.ofNat 16 (be16 hi lo)

/-- A host byte, 0 to 3. -/
def hostOf (b : Byte) : Option HostId := if h : b.toNat < 4 then some ⟨b.toNat, h⟩ else none

/-- An optional host byte: 0 to 3, or 0xFF for none. -/
def optHostOf (b : Byte) : Option (Option HostId) :=
  if b = 0xFF then some none
  else match hostOf b with
    | none => none
    | some h => some (some h)

/-- A host set byte: bits 7 to 4 are zero. -/
def hostSetOf (b : Byte) : Option HostSet := if b.toNat < 16 then some (BitVec.ofNat 4 b.toNat) else none

/-- A yes/no byte. -/
def yesNoOf (b : Byte) : Option Bool := if b = 0 then some false else if b = 1 then some true else none

/-- A policy byte. -/
def policyOf (b : Byte) : Option Policy := if b = 0 then some .all else if b = 1 then some .any else none

/-- A mode byte. -/
def modeOf (b : Byte) : Option Mode :=
  match b.toNat with
  | 0 => some .off
  | 1 => some .rise
  | 2 => some .fall
  | 3 => some .both
  | 4 => some .high
  | 5 => some .low
  | _ => none

/-- A sample period byte. -/
def periodOf (b : Byte) : Option Period :=
  match b.toNat with
  | 0 => some .us10
  | 1 => some .us100
  | 2 => some .ms1
  | _ => none

/-- A group byte: 0 to 3, or 0xFF for none. -/
def groupOf (b : Byte) : Option (Option GroupId) := optHostOf b

/-- A source byte, 0 to 63. -/
def sourceOf (b : Byte) : Option SourceId := if h : b.toNat < 64 then some ⟨b.toNat, h⟩ else none

/-- A line byte, 0 to 23. -/
def lineOf (b : Byte) : Option LineId := if h : b.toNat < 24 then some ⟨b.toNat, h⟩ else none

/-- A slot byte, 0 to 47. -/
def slotOf (b : Byte) : Option SlotId := if h : b.toNat < 48 then some ⟨b.toNat, h⟩ else none

/-- A number byte from `lo` to `hi`. -/
def rangeOf (lo hi : Nat) (b : Byte) : Option Nat :=
  if lo ≤ b.toNat ∧ b.toNat ≤ hi then some b.toNat else none

/-- A time of `lo` to 1000 ms in two bytes. -/
def timeOf (lo : Nat) (hi8 lo8 : Byte) : Option Nat :=
  if lo ≤ be16 hi8 lo8 ∧ be16 hi8 lo8 ≤ Config.timeLimit then some (be16 hi8 lo8) else none

/-! ## Writing response fields -/

/-- A number in one byte. -/
def byte (n : Nat) : Byte := BitVec.ofNat 8 n

/-- A number in two bytes, most significant first. -/
def bytes16 (n : Nat) : List Byte := [byte (n / 256), byte n]

/-- A timebase value in four bytes, most significant first. -/
def bytes32 (t : Time) : List Byte :=
  [byte (t.toNat / 16777216), byte (t.toNat / 65536), byte (t.toNat / 256), byte t.toNat]

def byteOfBool (b : Bool) : Byte := if b then 1 else 0

def byteOfOptHost : Option HostId → Byte
  | none => 0xFF
  | some h => byte h.val

def byteOfHostSet (hs : HostSet) : Byte := byte hs.toNat

def byteOfPolicy : Policy → Byte
  | .all => 0
  | .any => 1

def byteOfMode : Mode → Byte
  | .off => 0
  | .rise => 1
  | .fall => 2
  | .both => 3
  | .high => 4
  | .low => 5

def byteOfPeriod : Period → Byte
  | .us10 => 0
  | .us100 => 1
  | .ms1 => 2

def byteOfGroup (g : Option GroupId) : Byte := byteOfOptHost g

def byteOfKind : Kind → Byte
  | .line => 0
  | .group => 1
  | .system => 2
  | .posted => 3

/-- A copy's state; an absent copy is 0. -/
def byteOfCopyState : CopyState → Byte
  | .pending => 1
  | .parked => 2
  | .taken => 3
  | .overdue => 4
  | .stale => 5
  | .acked => 6
  | .expired => 7
  | .withdrawn => 8

def byteOfOutcome : RecordOutcome → Byte
  | .done => 1
  | .partially => 2
  | .expired => 3
  | .withdrawn => 4

def byteOfLastOutcome : LastOutcome → Byte
  | .none => 0
  | .ended o => byteOfOutcome o
  | .notarget => 5

def byteOfReceiptState : ReceiptState → Byte
  | .none => 0
  | .reserved => 1
  | .void => 2

def byteOfClockState : ClockState → Byte
  | .start => 0
  | .ref => 1
  | .backup => 2

def byteOfHostState : HostState → Byte
  | .offline => 0
  | .run => 1
  | .deep => 2
  | .waking => 3
  | .lost => 4

/-- A remaining time: the count minus 1, or 0xFFFF where it is absent (R19, R64). -/
def bytesRemaining : Option Nat → List Byte
  | none => [0xFF, 0xFF]
  | some n => bytes16 (n - 1)

end Sys2Proof.Machine
end

