-- ==== Sys2Proof/Machine/Frames.lean ====
section
/-! DEFINITION. Frames: the CRC, the command index, the judgement of a request frame, the result codes and the bytes of a response
frame (11.4 to 11.6). -/

namespace Sys2Proof.Machine

/-- Eight shifts of the CRC register with polynomial x⁸ + x² + x + 1 (R167). -/
def crcShifts : Nat → Byte → Byte
  | 0, r => r
  | k + 1, r => crcShifts k (if r.msb then (r <<< 1) ^^^ 0x07 else r <<< 1)

/-- The CRC of a row of bytes: the register starts at 0 and each byte enters most significant bit first, with no
reflection and no final inversion (R167). -/
def crc8 (bytes : List Byte) : Byte := bytes.foldl (fun r b => crcShifts 8 (r ^^^ b)) 0

/-- The code of each command (Table 11-8). -/
def cmdCode : Cmd → Byte
  | .ident => 0x01
  | .status => 0x02
  | .attach => 0x10
  | .detach => 0x11
  | .power => 0x12
  | .level => 0x13
  | .take => 0x20
  | .peek => 0x21
  | .ack => 0x22
  | .detail => 0x23
  | .post => 0x30
  | .receipt => 0x31
  | .routeRead => 0x40
  | .routeWrite => 0x41
  | .purge => 0x42
  | .lineRead => 0x48
  | .lineWrite => 0x49
  | .flushall => 0x50
  | .restore => 0x51

/-- The command of a code, `none` where the index has no such code (Table 11-8). -/
def cmdOf (b : Byte) : Option Cmd :=
  match b.toNat with
  | 0x01 => some .ident
  | 0x02 => some .status
  | 0x10 => some .attach
  | 0x11 => some .detach
  | 0x12 => some .power
  | 0x13 => some .level
  | 0x20 => some .take
  | 0x21 => some .peek
  | 0x22 => some .ack
  | 0x23 => some .detail
  | 0x30 => some .post
  | 0x31 => some .receipt
  | 0x40 => some .routeRead
  | 0x41 => some .routeWrite
  | 0x42 => some .purge
  | 0x48 => some .lineRead
  | 0x49 => some .lineWrite
  | 0x50 => some .flushall
  | 0x51 => some .restore
  | _ => none

/-- What a request frame is judged to be (R166, cases 2 to 4). -/
inductive Judgement where
  | badFrame
  | badCommand
  | valid (c : Cmd) (body : List Byte)
  deriving DecidableEq, Repr

/-- A frame whose bytes are all there: its command byte, length byte and the rest, of which the last byte is the CRC. The
length byte is at most 24, the byte count agrees with it and the CRC is that of the bytes before it (R166, case 2). -/
def frameIntact (code len : Byte) (rest : List Byte) : Bool :=
  decide (len.toNat ≤ 24) && decide (rest.length = len.toNat + 1)
    && rest.getLast? == some (crc8 (code :: len :: rest.dropLast))

/-- The judgement of a request frame (R166, cases 2 to 4). -/
def judgeFrame : List Byte → Judgement
  | code :: len :: rest =>
    if frameIntact code len rest then
      match cmdOf code with
      | none => .badCommand
      | some c => .valid c rest.dropLast
    else .badFrame
  | _ => .badFrame

/-- The request frame of a command: its code, the body's length, the body and the CRC (Table 11-3). -/
def requestFrame (c : Cmd) (body : List Byte) : List Byte :=
  cmdCode c :: byte body.length :: (body ++ [crc8 (cmdCode c :: byte body.length :: body)])

/-- The byte of a result code (Table 11-9). -/
def resultByte : ResultCode → Byte
  | .ok => 0x00
  | .none => 0x01
  | .noresp => 0x02
  | .notready => 0x03
  | .badframe => 0x04
  | .badcmd => 0x05
  | .badarg => 0x06
  | .state => 0x07
  | .denied => 0x08
  | .disabled => 0x09
  | .full => 0x0A
  | .noroom => 0x0B
  | .notarget => 0x0C
  | .rcptfull => 0x0D
  | .stackfull => 0x0E
  | .order => 0x0F
  | .unknown => 0x10
  | .late => 0x11
  | .nottaken => 0x12
  | .conflict => 0x13
  | .busy => 0x14

/-- A response with no body. -/
def bare (c : ResultCode) : Response := { result := c, body := [] }

/-- A response OK with a body. -/
def okWith (body : List Byte) : Response := { result := .ok, body := body }

/-- The bytes of a response before its CRC (Table 11-3). -/
def responseHead (r : Response) (flags : Byte) : List Byte :=
  resultByte r.result :: flags :: byte r.body.length :: r.body

/-- The bytes of a response as sent (Table 11-3, R167). -/
def responseFrame (r : Response) (flags : Byte) : List Byte := responseHead r flags ++ [crc8 (responseHead r flags)]

/-- The first `n` bytes that the part shifts out for a frame: the frame, then 0x00 for each further byte (R169). -/
def shiftedOut (frame : List Byte) (n : Nat) : List Byte := (frame ++ List.replicate n 0).take n

end Sys2Proof.Machine
end

