-- ==== Sys2Proof/Machine/Ports.lean ====
section
/-! DEFINITION. The host ports (Chapter 11): request and fetch transactions, the execution of a frame, and how a host
command's row meets its port. -/

namespace Sys2Proof.Machine

/-- The executing flag (R165): yes from the end of a valid request until the completion. -/
def Port.executing (x : Port) : Bool :=
  match x.execution with
  | .idle => false
  | .received _ _ => true
  | .answered _ => true

/-- During a request the port drives 0x00 (R165). -/
def State.drivesZero (s : State) (p : HostId) (n : Nat) : State :=
  s.setPort p { s.port p with sdo := List.replicate n 0 }

/-- A request that ends while the port executes is discarded unread (R166, case 1). -/
def State.dropRequest (s : State) (p : HostId) : State := s.setPort p { s.port p with dropped := true }

/-- A request that the port takes and that is not a valid frame: its answer replaces the buffer (R166, cases 2 and 3). -/
def State.answerAtOnce (s : State) (p : HostId) (c : ResultCode) : State :=
  s.setPort p { s.port p with buffer := some (bare c), dropped := false }

/-- A valid frame is taken: execution begins, and a sleeping host returns to RUN first (R166, case 4; R168, step 1). -/
def State.beginExecution (s : State) (p : HostId) (c : Cmd) (body : List Byte) : State :=
  (s.setPort p { s.port p with execution := .received c body, dropped := false }).returnToRun p

/-- The completion: the response is placed in the buffer and the executing flag becomes no (R168, step 3). -/
def State.placeAnswer (s : State) (p : HostId) (r : Response) : State :=
  s.setPort p { s.port p with buffer := some r, execution := .idle }

/-- A command's rule: what it does to the state, and its response. -/
abbrev Rule := HostId → List Byte → State → State × Response

/-- Port `p` once a row's command has answered `r` (log entry 2). A frame that the port held as received has its answer wait
for the completion (R168, step 2). Else the row stands for the whole frame, of 3 bytes with its body's: the request was taken, the
port drove 0x00 meanwhile, and the answer is in the buffer (R165, R166, R168). -/
def State.answeredPort (s : State) (p : HostId) (body : List Byte) (r : Response) : Port :=
  match (s.port p).execution with
  | .received _ _ => { s.port p with execution := .answered r }
  | _ =>
    { s.port p with
      buffer := some r, execution := .idle, dropped := false, sdo := List.replicate (body.length + 3) 0 }

/-- `w`, with port `p` as its command's answer `r` leaves it, at the end of the event. -/
def State.answered (s w : State) (p : HostId) (body : List Byte) (r : Response) : State :=
  (w.setPort p (s.answeredPort p body r)).driveLines

/-- Carry a command out on port `p`: a sleeping host returns to RUN, then the command acts by its rule (R168, steps 1
and 2). -/
def State.carryOut (s : State) (p : HostId) (body : List Byte) (rule : Rule) : State :=
  s.answered (rule p body (s.returnToRun p)).1 p body (rule p body (s.returnToRun p)).2

/-- The response that a fetch on port `p` selects (R169). -/
def State.fetched (s : State) (p : HostId) : Response :=
  match (s.port p).execution, (s.port p).buffer with
  | .idle, none => bare .noresp
  | .idle, some r => r
  | .received _ _, _ => bare .notready
  | .answered _, _ => bare .notready

/-- A fetch transaction in which the host clocks `n` bytes after the first (R169). -/
def State.fetchOn (s : State) (p : HostId) (n : Nat) : State :=
  s.setPort p { s.port p with sdo := shiftedOut (responseFrame (s.fetched p) (s.flagsByte p)) n }

/-- A request transaction's judgement and what follows from it (R166). -/
def State.requestOn (s : State) (p : HostId) (bytes : List Byte) : State :=
  if (s.port p).executing then s.dropRequest p
  else match judgeFrame bytes with
    | .badFrame => s.answerAtOnce p .badframe
    | .badCommand => s.answerAtOnce p .badcmd
    | .valid c body => (s.beginExecution p c body).driveLines

/-- The end of a transaction whose chip select fell before device reset ended: it is ignored, and the port listens from then on
(R165). -/
def State.ignoreTransaction (s : State) (p : HostId) : State := s.setPort p { s.port p with ignoring := false }

/-- A transaction's first byte decides its kind; one with no whole byte is ignored, and so is one that device reset cut into
(R165). -/
def State.transaction (s : State) (p : HostId) (bytes : List Byte) : State :=
  if (s.port p).ignoring then s.ignoreTransaction p
  else match bytes with
    | [] => s
    | b :: rest => if b = 0 then s.fetchOn p rest.length else (s.drivesZero p bytes.length).requestOn p bytes

/-- REQUEST_TRANSACTION (R165, R166). -/
def execRequestTransaction (p : HostId) (bytes : List Byte) (s : State) : Host.Outcome State Fault Refusal :=
  .next (s.transaction p bytes)

/-- FETCH (R169): a transaction whose first byte is 0x00; the bytes the host sends after it are ignored. -/
def execFetch (p : HostId) (clocked : Nat) (s : State) : Host.Outcome State Fault Refusal :=
  .next (s.transaction p (0 :: List.replicate clocked 0))

/-- The row of command `c` on port `p` with this body acts: the port holds this frame as received, or listens, executes nothing,
and the body fits a frame (log entry 2). -/
def State.ready (s : State) (p : HostId) (c : Cmd) (body : List Byte) : Bool :=
  match (s.port p).execution with
  | .idle => !(s.port p).ignoring && decide (body.length ≤ 24)
  | .received c' body' => decide (c' = c ∧ body' = body)
  | .answered _ => false

/-- The row of host command `c` on port `p` (log entry 2). Where the port is ready for it, the command is carried out. Elsewhere the
row is the transaction of its frame and no more: ignored after a reset (R165), a bad frame for its length (R166, case 2), or
discarded while the port executes (R166, case 1). -/
def State.hostCommand (s : State) (p : HostId) (c : Cmd) (body : List Byte) (rule : Rule) : State :=
  if s.ready p c body then s.carryOut p body rule else s.transaction p (requestFrame c body)

end Sys2Proof.Machine
end

