-- ==== Sys2Proof/Machine/Clocks.lean ====
section
/-! DEFINITION. The Clock Supervisor and Timebase (Chapter 10): the millisecond tick, REFCLK supervision, RESTORE, and
the cycle of the internal oscillator that passes while no command waits. -/

namespace Sys2Proof.Machine

/-! ## The millisecond tick -/

/-- A running deadline or grace count falls by one (R64, R67). -/
def Copy.tick (c : Copy) : Copy :=
  match c.state with
  | .pending => { c with deadline := c.deadline.map (· - 1) }
  | .taken => { c with deadline := c.deadline.map (· - 1) }
  | .overdue => { c with grace := c.grace.map (· - 1) }
  | _ => c

/-- Every copy of the record at a millisecond tick. -/
def Record.tick (r : Record) : Record :=
  { r with copies := vof (fun h => (r.copy h).map Copy.tick) }

/-- The wake timer at a millisecond tick: it runs while the host is WAKING (R148). -/
def HostRecord.tick (x : HostRecord) : HostRecord :=
  if x.state = .waking then { x with wakeTimer := x.wakeTimer.map (· - 1) } else x

/-- The timebase rises by one, and every running deadline, grace and wake count falls by one (R158, R159). -/
def State.millisecond (s : State) : State :=
  { s with
    store := { s.store with
      slots := vof (fun i => { s.slot i with record := (s.record? i).map Record.tick }) }
    hosts := vof (fun h => (s.host h).tick)
    clock := { s.clock with timebase := s.clock.timebase + 1, dividerMs1 := 0 } }

/-- MILLISECOND_TICK (R159). -/
def execMillisecondTick (s : State) : Host.Outcome State Fault Refusal := .next s.millisecond.driveLines

/-! ## Clock cycles -/

/-- One more cycle toward a limit, the cycle that would reach the limit being left to the event that marks it (log
entry 5). -/
def oneCycle (limit n : Nat) : Nat := if n + 1 < limit then n + 1 else n

/-- The tick dividers take one cycle of the selected source clock (R159). -/
def Clock.divide (c : Clock) : Clock :=
  { c with
    dividerUs10 := oneCycle Config.cyclesUs10 c.dividerUs10
    dividerUs100 := oneCycle Config.cyclesUs100 c.dividerUs100
    dividerMs1 := oneCycle Config.cyclesMs1 c.dividerMs1 }

/-- One cycle of the internal oscillator: the stability measure and the loss window run while REFCLK is PRESENT, and the
dividers take the cycle in START and BACKUP (R159, R160). -/
def Clock.oscillate (c : Clock) : Clock :=
  let supervised : Clock :=
    if c.refPresent then
      { c with
        stability := oneCycle Config.stableCycles c.stability
        lossWindow := oneCycle Config.lossCycles c.lossWindow }
    else c
  if c.state = .ref then supervised else supervised.divide

/-- What passes while no command waits: one oscillator cycle (log entry 5). -/
def State.oscillatorCycle (s : State) : State := { s with clock := s.clock.oscillate }

/-! ## REFCLK supervision -/

/-- A REFCLK rising edge: it makes an ABSENT condition PRESENT and starts the measure, or restarts the loss window; in REF it is
also the dividers' cycle (R159, R160). -/
def Clock.risingEdge (c : Clock) : Clock :=
  let seen : Clock :=
    if c.refPresent then { c with lossWindow := 0 }
    else { c with refPresent := true, stability := 0, lossWindow := 0 }
  if c.state = .ref then seen.divide else seen

/-- REFCLK_RISING_EDGE (R160). -/
def execRefclkRisingEdge (s : State) : Host.Outcome State Fault Refusal :=
  .next { s with clock := s.clock.risingEdge }

/-- REFCLK is found lost: the condition becomes ABSENT and the measure returns to 0 (R160). -/
def Clock.loseRef (c : Clock) : Clock := { c with refPresent := false, stability := 0, lossWindow := 0 }

/-- Loss detection (R160 to R162): in REF the clock state becomes BACKUP and REFLOST is raised. While the condition is
ABSENT no further loss is detected. -/
def State.lossDetected (s : State) : State :=
  if s.clock.refPresent then
    if s.clock.state = .ref then
      { s with clock := { s.clock.loseRef with state := .backup } }.admission .reflost
    else { s with clock := s.clock.loseRef }
  else s

/-- LOSS_DETECTION (R160 to R162). -/
def execLossDetection (s : State) : Host.Outcome State Fault Refusal := .next s.lossDetected.driveLines

/-- The measure is stable (R160). -/
def Clock.stable (c : Clock) : Bool := c.stability == Config.stableCycles

/-- The stability measure reaches 1 ms: in START the clock state becomes REF (R161). The measure runs only while REFCLK is
PRESENT. -/
def Clock.becomeStable (c : Clock) : Clock :=
  if c.refPresent then
    { c with stability := Config.stableCycles, state := if c.state = .start then .ref else c.state }
  else c

/-- STABILITY_REACHED (R161). -/
def execStabilityReached (s : State) : Host.Outcome State Fault Refusal :=
  .next { s with clock := s.clock.becomeStable }

/-! ## RESTORE -/

/-- The rule of RESTORE (R163). -/
def restoreRule (p : HostId) (body : List Byte) (s : State) : State × Response :=
  if !s.usable p then (s, bare .state)
  else if s.administrator ≠ p then (s, bare .denied)
  else if !body.isEmpty then (s, bare .badarg)
  else if s.clock.state ≠ .backup then (s, bare .state)
  else if !s.clock.stable then (s, bare .notready)
  else ({ s with clock := { s.clock with state := .ref } }, bare .ok)

/-- RESTORE (R163). -/
def execRestore (p : HostId) (body : List Byte) (s : State) : Host.Outcome State Fault Refusal :=
  .next (s.hostCommand p .restore body restoreRule)

end Sys2Proof.Machine
end

