-- ==== Sys2Proof/Machine/Hosts.lean ====
section
/-! DEFINITION. The Host Manager (Chapter 9): ATTACH, DETACH, POWER, and the expiries that declare a host LOST. -/

namespace Sys2Proof.Machine

/-! ## ATTACH -/

/-- The limits, the state RUN, threshold 0 and accepting yes that an accepted ATTACH sets (R142, R143). -/
def State.openSession (s : State) (h : HostId) (grace wake : Nat) : State :=
  (s.setHost h { s.host h with state := .run, graceLimit := grace, wakeLimit := wake, wakeTimer := none }).setDeliv h
    { s.deliv h with threshold := 0, accepting := true }

/-- An accepted ATTACH with FRESH: host cleanup while the host is held as not usable, then the new session (R143). -/
def State.freshAttach (s : State) (h : HostId) (grace wake : Nat) : State :=
  ((s.setHostState h .offline).cleanup h).openSession h grace wake

/-- Orders 2 to 4 of ATTACH (R141). -/
def attachChecked (p : HostId) (grace wake : Nat) (fresh : Bool) (s : State) : State × Response :=
  match (s.host p).state with
  | .offline => (s.openSession p grace wake, bare .ok)
  | .lost => ((s.openSession p grace wake).admission (.hostback p), bare .ok)
  | _ => if fresh then (s.freshAttach p grace wake, bare .ok) else (s, bare .state)

/-- The rule of ATTACH (R141). -/
def attachRule (p : HostId) (body : List Byte) (s : State) : State × Response :=
  match body with
  | [gHi, gLo, wHi, wLo, fresh] =>
    match timeOf 1 gHi gLo, timeOf 1 wHi wLo, yesNoOf fresh with
    | some grace, some wake, some f => attachChecked p grace wake f s
    | _, _, _ => (s, bare .badarg)
  | _ => (s, bare .badarg)

/-- ATTACH (R141 to R143). -/
def execAttach (p : HostId) (body : List Byte) (s : State) : Host.Outcome State Fault Refusal :=
  .next (s.hostCommand p .attach body attachRule)

/-! ## DETACH -/

/-- An accepted DETACH (R144). -/
def State.detachHost (s : State) (h : HostId) : State := (s.setHostState h .offline).cleanup h

/-- The rule of DETACH (R144). -/
def detachRule (p : HostId) (body : List Byte) (s : State) : State × Response :=
  if !s.usable p then (s, bare .state)
  else if !body.isEmpty then (s, bare .badarg)
  else if !(s.deliv p).stack.isEmpty then (s, bare .state)
  else (s.detachHost p, bare .ok)

/-- DETACH (R144). -/
def execDetach (p : HostId) (body : List Byte) (s : State) : Host.Outcome State Fault Refusal :=
  .next (s.hostCommand p .detach body detachRule)

/-! ## POWER -/

/-- The record in slot `i` has the deep-wake flag. -/
def State.deepWakeAt (s : State) (i : SlotId) : Bool :=
  match s.record? i with
  | none => false
  | some r => r.deepWake

/-- Host `p`'s queue holds a PENDING copy of a deep-wake record (R145, order 5). -/
def State.deepWakeOffered (s : State) (p : HostId) : Bool :=
  (s.deliv p).queue.any (fun i => s.isPending p i && s.deepWakeAt i)

/-- An accepted POWER DEEP (R146). -/
def State.sleepHost (s : State) (h : HostId) : State := (s.setHostState h .deep).mapCopies h Copy.park

/-- The rule of POWER (R145). -/
def powerRule (p : HostId) (body : List Byte) (s : State) : State × Response :=
  if !s.usable p then (s, bare .state)
  else match body with
    | [b] =>
      match yesNoOf b with
      | none => (s, bare .badarg)
      | some false => (s, bare .ok)
      | some true =>
        if !(s.deliv p).stack.isEmpty then (s, bare .state)
        else if s.deepWakeOffered p then (s, bare .busy)
        else (s.sleepHost p, bare .ok)
    | _ => (s, bare .badarg)

/-- POWER (R145, R146). -/
def execPower (p : HostId) (body : List Byte) (s : State) : Host.Outcome State Fault Refusal :=
  .next (s.hostCommand p .power body powerRule)

/-! ## Expiries -/

/-- The deadline count of host `h`'s copy in slot `i` runs and has reached 0 (R64). -/
def Copy.deadlineDue (c : Copy) : Bool :=
  match c.state with
  | .pending => c.deadline == some 0
  | .taken => c.deadline == some 0
  | _ => false

/-- The grace count of the copy has reached 0 (R67). -/
def Copy.graceDue (c : Copy) : Bool := c.state == .overdue && c.grace == some 0

/-- The deadline expiry of a PENDING copy (R65). -/
def State.expirePending (s : State) (i : SlotId) (h : HostId) (c : Copy) : State :=
  (((s.setCopy i h (c.ended .expired)).dequeue h i).escalate i h).judge i

/-- The deadline expiry of a TAKEN copy: OVERDUE in place, grace started at the host's limit (R66). -/
def State.expireTaken (s : State) (i : SlotId) (h : HostId) (c : Copy) : State :=
  (s.setCopy i h { c with state := .overdue, deadline := none, grace := some (s.host h).graceLimit }).escalate i h

/-- A deadline expiry; where no running count of the copy has reached 0, none occurs (R64, R81). -/
def State.deadlineExpiry (s : State) (i : SlotId) (h : HostId) : State :=
  match s.copy? i h with
  | none => s
  | some c =>
    if c.deadlineDue then
      if c.state = .pending then s.expirePending i h c else s.expireTaken i h c
    else s

/-- DEADLINE_EXPIRY (R64 to R66). -/
def execDeadlineExpiry (slot : SlotId) (h : HostId) (s : State) : Host.Outcome State Fault Refusal :=
  .next (s.deadlineExpiry slot h).driveLines

/-- A grace expiry; where the copy has no grace that reached 0, none occurs (R67, R82). -/
def State.graceExpiry (s : State) (i : SlotId) (h : HostId) : State :=
  match s.copy? i h with
  | none => s
  | some c => if c.graceDue then s.loseHost h else s

/-- GRACE_EXPIRY (R67, R150, R151). -/
def execGraceExpiry (slot : SlotId) (h : HostId) (s : State) : Host.Outcome State Fault Refusal :=
  .next (s.graceExpiry slot h).driveLines

/-- A wake timer expiry; where host `h` is not WAKING with its count at 0, none occurs (R148, R149). -/
def State.wakeTimerExpiry (s : State) (h : HostId) : State :=
  if (s.host h).state = .waking ∧ (s.host h).wakeTimer = some 0 then s.loseHost h else s

/-- WAKE_TIMER_EXPIRY (R149, R151). -/
def execWakeTimerExpiry (h : HostId) (s : State) : Host.Outcome State Fault Refusal :=
  .next (s.wakeTimerExpiry h).driveLines

end Sys2Proof.Machine
end

