-- ==== Sys2Proof/Machine/Delivery.lean ====
section
/-! DEFINITION. The commands of a host's queue and stack: LEVEL, TAKE, PEEK (Chapter 5) and ACK (Chapter 4). -/

namespace Sys2Proof.Machine

/-! ## Occurrence IDs and the occurrence summary -/

/-- The record that an occurrence ID of a generation byte and a slot byte names, if it is live (R10). -/
def State.resolve (s : State) (generation slot : Byte) : Option SlotId :=
  match slotOf slot with
  | none => none
  | some i => if (s.record? i).isSome && (s.slot i).generation == generation then some i else none

/-- The two bytes of the ID of slot `i` as its generation stands (Table 11-5). -/
def State.idBytes (s : State) (i : SlotId) : List Byte := [(s.slot i).generation, byte i.val]

/-- The kind-specific bytes of a summary (Table 11-7). -/
def summaryTail : Particulars → List Byte
  | .line => []
  | .group members _ => byte members.length :: members.map (fun m => byte m.val)
  | .system none => []
  | .system (some h) => [byte h.val]
  | .posted payload poster _ => bytes16 payload.toNat ++ [byte poster.val]

/-- Byte 10 of the summary: bit 0 delayed, bit 1 the copy's escalation mark (Table 11-7). DESIGN CHOICE (log entry 21): bits 7 to 2,
which the spec does not name, are 0. -/
def summaryFlags (r : Record) (h : HostId) : Byte :=
  byte ((if r.delayed then 1 else 0) + (if r.hasCopy h (fun c => c.escalation) then 2 else 0))

/-- The occurrence summary of record `r` in slot `i` for host `h` (R96, Table 11-7). -/
def State.summary (s : State) (i : SlotId) (r : Record) (h : HostId) : List Byte :=
  s.idBytes i ++ [byte r.source.val, byteOfKind r.particulars.kind, byte r.priority] ++ bytes32 r.arrival
    ++ [byte r.repeats, summaryFlags r h] ++ summaryTail r.particulars

/-- The summary of the record that stands in slot `i`. -/
def State.summaryAt (s : State) (i : SlotId) (h : HostId) : List Byte :=
  match s.record? i with
  | none => []
  | some r => s.summary i r h

/-! ## LEVEL -/

/-- The rule of LEVEL (R91). -/
def levelRule (p : HostId) (body : List Byte) (s : State) : State × Response :=
  if !s.usable p then (s, bare .state)
  else match body with
    | [t, a] =>
      match rangeOf 0 15 t, yesNoOf a with
      | some threshold, some accepting =>
        (s.setDeliv p { s.deliv p with threshold := threshold, accepting := accepting }, bare .ok)
      | _, _ => (s, bare .badarg)
    | _ => (s, bare .badarg)

/-- LEVEL (R91). -/
def execLevel (p : HostId) (body : List Byte) (s : State) : Host.Outcome State Fault Refusal :=
  .next (s.hostCommand p .level body levelRule)

/-! ## TAKE and PEEK -/

/-- The first TAKE of an open GROUP record closes it (R8, R97). -/
def Record.close (r : Record) : Record :=
  match r.particulars with
  | .group members _ => { r with particulars := .group members false }
  | _ => r

/-- The copy after a TAKE: TAKEN, its deadline going on from its count (R63). -/
def Copy.take (c : Copy) : Copy := { c with state := .taken }

/-- An accepted TAKE of host `p`'s head at slot `i`, steps 1 to 3 of R95. -/
def State.takeHead (s : State) (p : HostId) (i : SlotId) : State :=
  (s.pushStack p i).modifyRecord i (fun r => (r.modifyCopy p Copy.take).close)

/-- The rule of TAKE (R94, R95). -/
def takeRule (p : HostId) (body : List Byte) (s : State) : State × Response :=
  if !s.usable p then (s, bare .state)
  else if !body.isEmpty then (s, bare .badarg)
  else if Config.stackCapacity ≤ (s.deliv p).stack.length then (s, bare .stackfull)
  else match s.head? p with
    | none => (s, bare .none)
    | some i =>
      if s.aboveGate p i then (s.takeHead p i, okWith ((s.takeHead p i).summaryAt i p)) else (s, bare .none)

/-- TAKE (R94, R95). -/
def execTake (p : HostId) (body : List Byte) (s : State) : Host.Outcome State Fault Refusal :=
  .next (s.hostCommand p .take body takeRule)

/-- The rule of PEEK (R98). -/
def peekRule (p : HostId) (body : List Byte) (s : State) : State × Response :=
  if !s.usable p then (s, bare .state)
  else if !body.isEmpty then (s, bare .badarg)
  else match s.head? p with
    | none => (s, bare .none)
    | some i =>
      (s, okWith (byteOfBool (s.aboveGate p i) :: byte (s.deliv p).stack.length :: s.summaryAt i p))

/-- PEEK (R98). -/
def execPeek (p : HostId) (body : List Byte) (s : State) : Host.Outcome State Fault Refusal :=
  .next (s.hostCommand p .peek body peekRule)

/-! ## ACK -/

/-- The record's condition after an ACK: 0 for LIVE, or the outcome with which it retires (R72). -/
def State.conditionByte (s : State) (i : SlotId) : Byte :=
  match s.record? i with
  | none => 0
  | some r => if r.finished then byteOfOutcome r.outcome else 0

/-- A record under ANY is satisfied by the ACK, and its other copies are withdrawn (R70, step 3; R73). -/
def State.satisfy (s : State) (i : SlotId) : State :=
  match s.record? i with
  | none => s
  | some r => if r.policy = .any then s.withdraw i else s

/-- Steps 1 to 3 of an ACK answered OK (R70). -/
def State.ackTaken (s : State) (p : HostId) (i : SlotId) (c : Copy) : State :=
  ((s.setCopy i p (c.ended .acked)).popStack p).satisfy i

/-- An ACK answered LATE on an OVERDUE copy, before retirement is judged (R71). -/
def State.ackOverdue (s : State) (p : HostId) (i : SlotId) (c : Copy) : State :=
  ((s.setCopy i p (c.ended .expired)).escalate i p).popStack p

/-- An ACK answered LATE on a STALE copy, before retirement is judged (R71). -/
def State.ackStale (s : State) (p : HostId) (i : SlotId) (c : Copy) : State :=
  (s.setCopy i p (c.ended .withdrawn)).popStack p

/-- The answer of an ACK that ends a copy, and the judgement of retirement that follows (R70, step 4; R72). -/
def State.ackAnswer (s : State) (i : SlotId) (result : ResultCode) (x : CopyState) : State × Response :=
  (s.judge i, { result := result, body := [byteOfCopyState x, s.conditionByte i] })

/-- An ACK of host `p`'s copy `c` of the live record in slot `i` (Table 4-3, orders 5 to 10). At order 6 nothing retires, and byte 1
of the answer is LIVE (R72). -/
def ackCopy (p : HostId) (i : SlotId) (c : Copy) (s : State) : State × Response :=
  let top := (s.deliv p).stack.head? == some i
  match c.state with
  | .pending => (s, bare .nottaken)
  | .parked => (s, bare .nottaken)
  | .acked => (s, { result := .late, body := [byteOfCopyState .acked, 0] })
  | .expired => (s, { result := .late, body := [byteOfCopyState .expired, 0] })
  | .withdrawn => (s, { result := .late, body := [byteOfCopyState .withdrawn, 0] })
  | .taken => if top then (s.ackTaken p i c).ackAnswer i .ok .acked else (s, bare .order)
  | .overdue => if top then (s.ackOverdue p i c).ackAnswer i .late .expired else (s, bare .order)
  | .stale => if top then (s.ackStale p i c).ackAnswer i .late .withdrawn else (s, bare .order)

/-- The rule of ACK (Table 4-3). -/
def ackRule (p : HostId) (body : List Byte) (s : State) : State × Response :=
  if !s.usable p then (s, bare .state)
  else match body with
    | [generation, slot] =>
      match s.resolve generation slot with
      | none => (s, bare .unknown)
      | some i =>
        match s.copy? i p with
        | none => (s, bare .denied)
        | some c => ackCopy p i c s
    | _ => (s, bare .badarg)

/-- ACK (R69). -/
def execAck (p : HostId) (body : List Byte) (s : State) : Host.Outcome State Fault Refusal :=
  .next (s.hostCommand p .ack body ackRule)

end Sys2Proof.Machine
end

