-- ==== Sys2Proof/Machine/Records.lean ====
section
/-! DEFINITION. DETAIL and FLUSHALL (Chapter 1). -/

namespace Sys2Proof.Machine

/-! ## DETAIL -/

/-- The kind-specific bytes of the RECORD part (Table 11-7). -/
def recordTail : Particulars → List Byte
  | .line => []
  | .group members _ => byte members.length :: members.map (fun m => byte m.val)
  | .system none => []
  | .system (some h) => [byte h.val]
  | .posted payload poster receipt =>
    bytes16 payload.toNat ++ [byte poster.val, byteOfReceiptState receipt]

/-- Byte 8 of the RECORD part: deep-wake, delayed, escalated, purged and open in bits 0 to 4 (Table 11-7).
DESIGN CHOICE (log entry 21): bits 7 to 5, which the spec does not name, are 0. -/
def recordFlags (r : Record) : Byte :=
  byte ((if r.deepWake then 1 else 0) + (if r.delayed then 2 else 0) + (if r.escalated then 4 else 0)
    + (if r.purged then 8 else 0) + (if r.isOpen then 16 else 0))

/-- The RECORD part (R18, Table 11-7). DESIGN CHOICE (log entry 21): bits 7 to 5 of byte 4, which the spec does not name, are 0. -/
def State.recordPart (s : State) (i : SlotId) (r : Record) : List Byte :=
  s.idBytes i ++ [byte r.source.val, byteOfKind r.particulars.kind,
      byte (r.priority + (if r.policy = .any then 16 else 0))]
    ++ bytes16 r.deadline ++ [byteOfOptHost r.fallback, recordFlags r, byteOfOptHost r.covered]
    ++ bytes32 r.arrival ++ [byte r.repeats] ++ recordTail r.particulars

/-- The remaining deadline that DETAIL reports: 0 for an OVERDUE copy, absent where the copy has none (R19). -/
def Copy.deadlineBytes (c : Copy) : List Byte :=
  match c.state with
  | .overdue => bytes16 0
  | .pending => bytesRemaining c.deadline
  | .parked => bytesRemaining c.deadline
  | .taken => bytesRemaining c.deadline
  | _ => bytesRemaining none

/-- The remaining grace that DETAIL reports: for an OVERDUE copy only (R19). -/
def Copy.graceBytes (c : Copy) : List Byte :=
  match c.state with
  | .overdue => bytesRemaining c.grace
  | _ => bytesRemaining none

/-- One entry of the COPIES part (R19, Table 11-7). DESIGN CHOICE (log entry 21): bits 6 to 4 of its first byte, which the spec does
not name, are 0. -/
def copyEntry : Option Copy → List Byte
  | none => [0] ++ bytesRemaining none ++ bytesRemaining none
  | some c =>
    [byteOfCopyState c.state + (if c.escalation then 0x80 else 0)] ++ c.deadlineBytes ++ c.graceBytes

/-- The COPIES part (R19, Table 11-7). -/
def State.copiesPart (s : State) (i : SlotId) (r : Record) : List Byte :=
  s.idBytes i ++ allHosts.flatMap (fun h => copyEntry (r.copy h))

/-- The part of the record in slot `i` that DETAIL reports. -/
def State.detailPart (s : State) (i : SlotId) (copies : Bool) : List Byte :=
  match s.record? i with
  | none => []
  | some r => if copies then s.copiesPart i r else s.recordPart i r

/-- The rule of DETAIL (R17). -/
def detailRule (p : HostId) (body : List Byte) (s : State) : State × Response :=
  if !s.usable p then (s, bare .state)
  else match body with
    | [generation, slot, part] =>
      match yesNoOf part with
      | none => (s, bare .badarg)
      | some copies =>
        match s.resolve generation slot with
        | none => (s, bare .unknown)
        | some i => (s, okWith (s.detailPart i copies))
    | _ => (s, bare .badarg)

/-- DETAIL (R17). -/
def execDetail (p : HostId) (body : List Byte) (s : State) : Host.Outcome State Fault Refusal :=
  .next (s.hostCommand p .detail body detailRule)

/-! ## FLUSHALL -/

/-- The LIVE slots, ascending. -/
def State.liveSlots (s : State) : List SlotId := allSlots.filter (fun i => (s.record? i).isSome)

/-- A STALE copy ended WITHDRAWN by FLUSHALL, leaving its host's stack (R21). -/
def State.endStale (s : State) (i : SlotId) (h : HostId) : State :=
  match s.copy? i h with
  | none => s
  | some c =>
    if c.state = .stale then
      (s.setCopy i h (c.ended .withdrawn)).setDeliv h
        { s.deliv h with stack := (s.deliv h).stack.filter (fun x => x != i) }
    else s

/-- A record ended by FLUSHALL: purged, withdrawn, its STALE copies ended, and retired. The wait list is empty, and the
level re-check is not made (R15, R21, R22). DESIGN CHOICE (log entry 22): R99 and R84 leave a TAKEN copy STALE in place after a
withdrawal by FLUSHALL too; the model ends it WITHDRAWN within the event, as R21, R82 and R93 say. -/
def State.flushRecord (s : State) (i : SlotId) : State :=
  let t := allHosts.foldl (fun u h => u.endStale i h) ((s.markPurged i).withdraw i)
  match t.record? i with
  | none => t
  | some r => if r.finished then t.closeRecord i r else t

/-- The level re-arm of one line after FLUSHALL (R22, R110). -/
def State.flushRearm (s : State) (n : LineId) : State :=
  if (s.route (lineSource n)).config.enabled && (s.line n).conditionPresent then s.admission (.line n) else s

/-- The stores emptied: no wait entry, no record, and every queue and stack empty (R21, R22). -/
def State.flushStores (s : State) : State :=
  allHosts.foldl State.clearDelivery (s.liveSlots.foldl State.flushRecord { s with waitList := [] })

/-- An accepted FLUSHALL (R21, R22). -/
def State.flushAll (s : State) : State := allLines.foldl State.flushRearm s.flushStores

/-- The rule of FLUSHALL (R20). -/
def flushallRule (p : HostId) (body : List Byte) (s : State) : State × Response :=
  if !s.usable p then (s, bare .state)
  else if s.administrator ≠ p then (s, bare .denied)
  else if !body.isEmpty then (s, bare .badarg)
  else (s.flushAll, okWith [byte s.liveSlots.length])

/-- FLUSHALL (R20 to R22). -/
def execFlushall (p : HostId) (body : List Byte) (s : State) : Host.Outcome State Fault Refusal :=
  .next (s.hostCommand p .flushall body flushallRule)

end Sys2Proof.Machine
end

