-- ==== Sys2Proof/Machine/Routing.lean ====
section
/-! DEFINITION. ROUTE_READ, ROUTE_WRITE and PURGE (Chapter 2). -/

namespace Sys2Proof.Machine

/-- The requester owns route `n` or is the administrator (R24). -/
def State.mayEdit (s : State) (p : HostId) (n : SourceId) : Bool :=
  (s.route n).config.owner == p || s.administrator == p

/-! ## ROUTE_READ -/

/-- The group that ROUTE_READ and LINE_WRITE see for source `n`: its line's group, none for sources 24 to 63 (R32). -/
def State.groupOfSource (s : State) (n : SourceId) : Option GroupId :=
  match lineOfSource n with
  | none => none
  | some l => (s.line l).config.group

/-- The answer of ROUTE_READ (R32, Table 11-7). -/
def State.routeBytes (s : State) (n : SourceId) : List Byte :=
  let c := (s.route n).config
  [byte n.val, byteOfBool c.enabled, byte c.owner.val, byteOfHostSet c.targets, byte c.priority,
      byteOfPolicy c.policy, byte c.depth]
    ++ bytes16 c.deadline
    ++ [byteOfOptHost c.fallback, byteOfBool c.deepWake, byteOfHostSet c.posters, byte (s.route n).liveCount,
      byteOfLastOutcome (s.route n).lastOutcome, byteOfGroup (s.groupOfSource n)]

/-- The rule of ROUTE_READ (R32). -/
def routeReadRule (p : HostId) (body : List Byte) (s : State) : State × Response :=
  if !s.usable p then (s, bare .state)
  else match body with
    | [b] =>
      match sourceOf b with
      | none => (s, bare .badarg)
      | some n => (s, okWith (s.routeBytes n))
    | _ => (s, bare .badarg)

/-- ROUTE_READ (R32). -/
def execRouteRead (p : HostId) (body : List Byte) (s : State) : Host.Outcome State Fault Refusal :=
  .next (s.hostCommand p .routeRead body routeReadRule)

/-! ## ROUTE_WRITE -/

/-- The fields of a ROUTE_WRITE body after its source, `none` where one is outside its range or encoding (Table 2-2, order 6). -/
def routeConfigOf (enabled owner targets priority policy depth dHi dLo fallback deepWake posters : Byte) :
    Option RouteConfig := do
  let enabled ← yesNoOf enabled
  let owner ← hostOf owner
  let targets ← hostSetOf targets
  let priority ← rangeOf 1 15 priority
  let policy ← policyOf policy
  let depth ← rangeOf 1 4 depth
  let deadline ← timeOf 0 dHi dLo
  let fallback ← optHostOf fallback
  let deepWake ← yesNoOf deepWake
  let posters ← hostSetOf posters
  return { enabled, owner, targets, priority, policy, depth, deadline, fallback, deepWake, posters }

/-- Line source `n`'s line is in mode HIGH or LOW (Table 2-2, order 10). -/
def State.levelLineSource (s : State) (n : SourceId) : Bool :=
  match lineOfSource n with
  | none => false
  | some l => (s.line l).config.mode.isLevel

/-- The write of a route's fields, with the removal of the wait entry at a disable (R34, R35). -/
def State.storeRoute (s : State) (n : SourceId) (c : RouteConfig) : State :=
  let t := s.setRoute n { s.route n with config := c }
  if (s.route n).config.enabled && !c.enabled then t.dropWaiting n else t

/-- The level re-arm at a route enable (R36, R110). -/
def State.enableRearm (s : State) (n : SourceId) : State :=
  match lineOfSource n with
  | none => s
  | some l => s.levelRecheck l

/-- An accepted ROUTE_WRITE (R34 to R36). -/
def State.writeRoute (s : State) (n : SourceId) (c : RouteConfig) : State :=
  if !(s.route n).config.enabled && c.enabled then (s.storeRoute n c).enableRearm n else s.storeRoute n c

/-- Orders 7 to 10 of Table 2-2, and the write where none holds. -/
def routeWriteChecked (n : SourceId) (c : RouteConfig) (s : State) : State × Response :=
  if c.posters ≠ 0 ∧ n.val < 32 then (s, bare .badarg)
  else if isSystem n = true ∧ c.depth ≠ 1 then (s, bare .badarg)
  else if isSystem n = true ∧ c.owner ≠ s.administrator then (s, bare .badarg)
  else if s.levelLineSource n = true ∧ 1 < c.depth then (s, bare .conflict)
  else (s.writeRoute n c, bare .ok)

/-- The rule of ROUTE_WRITE (Table 2-2). -/
def routeWriteRule (p : HostId) (body : List Byte) (s : State) : State × Response :=
  if !s.usable p then (s, bare .state)
  else match body with
    | [source, enabled, owner, targets, priority, policy, depth, dHi, dLo, fallback, deepWake, posters] =>
      match sourceOf source with
      | none => (s, bare .badarg)
      | some n =>
        if !s.mayEdit p n then (s, bare .denied)
        else if owner ≠ byte (s.route n).config.owner.val ∧ p ≠ s.administrator then (s, bare .denied)
        else if isSystem n = true ∧ p ≠ s.administrator then (s, bare .denied)
        else
          match routeConfigOf enabled owner targets priority policy depth dHi dLo fallback deepWake posters with
          | none => (s, bare .badarg)
          | some c => routeWriteChecked n c s
    | _ => (s, bare .badarg)

/-- ROUTE_WRITE (R33 to R37). -/
def execRouteWrite (p : HostId) (body : List Byte) (s : State) : Host.Outcome State Fault Refusal :=
  .next (s.hostCommand p .routeWrite body routeWriteRule)

/-! ## PURGE -/

/-- One record purged: its flag set, its copies withdrawn, its retirement judged (R40, steps 2 and 3). -/
def State.purgeRecord (s : State) (i : SlotId) : State := ((s.markPurged i).withdraw i).judge i

/-- An accepted PURGE of source `n` (R40). DESIGN CHOICE (log entry 24): R42 counts one record fewer after an ACK that retires one; a
record that this retirement made of the source, by its handoff or level re-check, is live all the same and counted. -/
def State.purgeSource (s : State) (n : SourceId) : State :=
  (s.slotsOf n).foldl State.purgeRecord (s.dropWaiting n)

/-- The rule of PURGE (R39). -/
def purgeRule (p : HostId) (body : List Byte) (s : State) : State × Response :=
  if !s.usable p then (s, bare .state)
  else match body with
    | [b] =>
      match sourceOf b with
      | none => (s, bare .badarg)
      | some n =>
        if !s.mayEdit p n then (s, bare .denied)
        else (s.purgeSource n, okWith [byte (s.slotsOf n).length])
    | _ => (s, bare .badarg)

/-- PURGE (R39 to R41). -/
def execPurge (p : HostId) (body : List Byte) (s : State) : Host.Outcome State Fault Refusal :=
  .next (s.hostCommand p .purge body purgeRule)

end Sys2Proof.Machine
end

