-- ==== Sys2Proof/Machine/Lines.lean ====
section
/-! DEFINITION. The Line Unit (Chapters 6 and 7): sampling and qualification, LINE_READ and LINE_WRITE. -/

namespace Sys2Proof.Machine

/-! ## Sampling -/

/-- The edge mode names the change to level `b` (R107). -/
def Mode.names (m : Mode) (b : Bool) : Bool :=
  match m with
  | .rise => b
  | .fall => !b
  | .both => true
  | _ => false

/-- The raw event of a named edge of line `n`: for its group source if it is grouped, else for its own source (R107). -/
def State.edgeEvent (s : State) (n : LineId) : RawEvent :=
  match (s.line n).config.group with
  | none => .line n
  | some g => .group g n

/-- The level rule: an active level with live count 0 raises a raw event (R108). -/
def State.levelEvent (s : State) (n : LineId) (b : Bool) : State :=
  if (s.line n).config.mode.isActive b && (s.route (lineSource n)).liveCount == 0 then s.admission (.line n) else s

/-- What a qualified change to level `b` raises (R107, R108). -/
def State.qualifiedChange (s : State) (n : LineId) (b : Bool) : State :=
  if (s.line n).config.mode.names b then s.admission (s.edgeEvent n) else s.levelEvent n b

/-- The qualification state after sample `b` (R106, R115). -/
def Line.sampled (l : Line) (b : Bool) : Line :=
  { l with
    qual :=
      if l.qual.firstPending then { lastSample := b, level := b, disagreement := 0, firstPending := false }
      else if b = l.qual.level then { l.qual with lastSample := b, disagreement := 0 }
      else if l.config.q ≤ l.qual.disagreement + 1 then
        { l.qual with lastSample := b, level := b, disagreement := 0 }
      else { l.qual with lastSample := b, disagreement := l.qual.disagreement + 1 } }

/-- Sample `b` completes a qualified change (R106). -/
def Line.qualifies (l : Line) (b : Bool) : Bool :=
  !l.qual.firstPending && b != l.qual.level && decide (l.config.q ≤ l.qual.disagreement + 1)

/-- One line sampled at level `b`, and the raw event this may raise (R105 to R108, R115). -/
def State.sampleLine (s : State) (n : LineId) (b : Bool) : State :=
  let t := s.setLine n ((s.line n).sampled b)
  if (s.line n).qual.firstPending then t.levelEvent n b
  else if (s.line n).qualifies b then t.qualifiedChange n b
  else t

/-- Line `n` is sampled at the ticks of stream `period` (R105). -/
def State.sampledAt (s : State) (period : Period) (n : LineId) : Bool :=
  (s.line n).config.mode != .off && (s.line n).config.period == period

/-- The order in which the lines of a tick are taken: those that `order` names, then the others in ascending order
(log entry 3). -/
def sampleOrder (order : List LineId) : List LineId :=
  order.dedup ++ allLines.filter (fun n => !order.contains n)

/-- The divider of a stream starts over at its tick; the 1 ms sample tick is the millisecond tick, whose divider starts over
there (R159, log entry 5). -/
def Clock.restartDivider (c : Clock) : Period → Clock
  | .us10 => { c with dividerUs10 := 0 }
  | .us100 => { c with dividerUs100 := 0 }
  | .ms1 => c

/-- A tick of stream `period`: each of its lines that is not OFF is sampled (R105). -/
def State.sampleAll (s : State) (period : Period) (levels : BitVec 24) (order : List LineId) : State :=
  (sampleOrder order).foldl
    (fun t n => if t.sampledAt period n then t.sampleLine n (levels.getLsbD n.val) else t) s

/-- SAMPLE_TICK (R105). -/
def execSampleTick (period : Period) (levels : BitVec 24) (order : List LineId) (s : State) :
    Host.Outcome State Fault Refusal :=
  .next ({ s with clock := s.clock.restartDivider period }.sampleAll period levels order).driveLines

/-! ## LINE_READ -/

/-- The answer of LINE_READ (R112, Table 11-7). -/
def State.lineBytes (s : State) (n : LineId) : List Byte :=
  let l := s.line n
  [byte n.val, byteOfMode l.config.mode, byteOfPeriod l.config.period, byte l.config.q, byteOfGroup l.config.group,
    byteOfBool l.qual.level, byteOfBool l.qual.lastSample, byte l.qual.disagreement,
    byteOfBool l.qual.firstPending]

/-- The rule of LINE_READ (R112). -/
def lineReadRule (p : HostId) (body : List Byte) (s : State) : State × Response :=
  if !s.usable p then (s, bare .state)
  else match body with
    | [b] =>
      match lineOf b with
      | none => (s, bare .badarg)
      | some n => (s, okWith (s.lineBytes n))
    | _ => (s, bare .badarg)

/-- LINE_READ (R112). -/
def execLineRead (p : HostId) (body : List Byte) (s : State) : Host.Outcome State Fault Refusal :=
  .next (s.hostCommand p .lineRead body lineReadRule)

/-! ## LINE_WRITE -/

/-- The member set of group `g` (R119). -/
def State.members (s : State) (g : GroupId) : List LineId :=
  allLines.filter (fun n => (s.line n).config.group == some g)

/-- Host `p` owns the route of the group, or there is no group (R120). -/
def State.ownsGroup (s : State) (p : HostId) : Option GroupId → Bool
  | none => true
  | some g => (s.route (groupSource g)).config.owner == p

/-- The requester has the rights over both group routes that a change from group `old` to group `new` needs (R120, order 4). -/
def State.mayRegroup (s : State) (p : HostId) (old new : Option GroupId) : Bool :=
  s.administrator == p || (s.ownsGroup p old && s.ownsGroup p new)

/-- Order 4 of Table 6-3 refuses the write; it does not apply to a group value outside its encoding (R120). -/
def State.regroupRefused (s : State) (p : HostId) (n : LineId) (group : Byte) : Bool :=
  match groupOf group with
  | none => false
  | some q => (s.line n).config.group != q && !s.mayRegroup p (s.line n).config.group q

/-- The fields of a LINE_WRITE body after its line, `none` where one is outside its encoding (Table 6-3, order 5). -/
def lineConfigOf (mode period q group : Byte) : Option LineConfig := do
  let mode ← modeOf mode
  let period ← periodOf period
  let q ← rangeOf 1 15 q
  let group ← groupOf group
  return { mode, period, q, group }

/-- Group `new` differs from `old` and already has 8 members (R120, order 8). -/
def State.groupFull (s : State) (old new : Option GroupId) : Bool :=
  match new with
  | none => false
  | some g => old != new && decide (Config.groupCapacity ≤ (s.members g).length)

/-- The line after an accepted LINE_WRITE (R114). -/
def Line.written (l : Line) (c : LineConfig) : Line :=
  { config := c
    qual :=
      if c.mode = .off then { lastSample := false, level := false, disagreement := 0, firstPending := false }
      else if c.mode = l.config.mode ∧ c.period = l.config.period ∧ c.q = l.config.q then l.qual
      else { l.qual with disagreement := 0, firstPending := true } }

/-- Orders 6 to 8 of Table 6-3, and the write where none holds. -/
def lineWriteChecked (n : LineId) (c : LineConfig) (s : State) : State × Response :=
  if c.mode.isLevel = true ∧ c.group ≠ none then (s, bare .conflict)
  else if c.mode.isLevel = true ∧ 1 < (s.route (lineSource n)).config.depth then (s, bare .conflict)
  else if s.groupFull (s.line n).config.group c.group then (s, bare .full)
  else (s.setLine n ((s.line n).written c), bare .ok)

/-- The rule of LINE_WRITE (Table 6-3). -/
def lineWriteRule (p : HostId) (body : List Byte) (s : State) : State × Response :=
  if !s.usable p then (s, bare .state)
  else match body with
    | [line, mode, period, q, group] =>
      match lineOf line with
      | none => (s, bare .badarg)
      | some n =>
        if !s.mayEdit p (lineSource n) then (s, bare .denied)
        else if s.regroupRefused p n group then (s, bare .denied)
        else
          match lineConfigOf mode period q group with
          | none => (s, bare .badarg)
          | some c => lineWriteChecked n c s
    | _ => (s, bare .badarg)

/-- LINE_WRITE (R113, R114, R120, R121). -/
def execLineWrite (p : HostId) (body : List Byte) (s : State) : Host.Outcome State Fault Refusal :=
  .next (s.hostCommand p .lineWrite body lineWriteRule)

end Sys2Proof.Machine
end

