-- ==== Sys2Proof/Machine/Posting.lean ====
section
/-! DEFINITION. The Post Unit's commands: POST and RECEIPT (Chapter 8). -/

namespace Sys2Proof.Machine

/-- Waiting receipts and reservations fill host `p`'s 8 places (Table 8-3, order 6). -/
def State.receiptsFull (s : State) (p : HostId) : Bool :=
  decide (Config.receiptCapacity ≤ (s.postUnit p).receipts.length + (s.postUnit p).reservations)

/-- A reservation counted for host `p` (R130). -/
def State.reserve (s : State) (p : HostId) : State :=
  s.setPostUnit p { s.postUnit p with reservations := (s.postUnit p).reservations + 1 }

/-- An accepted POST: the record of source `n` in slot `i`, with a reservation if a receipt was requested (R130). -/
def State.createPost (s : State) (p : HostId) (n : SourceId) (i : SlotId) (payload : BitVec 16) (receipt : Bool)
    (hosts : List HostId) (esc : Bool) : State :=
  let r := s.newRecord n (.posted payload p (if receipt then .reserved else .none)) false 0
  if receipt then (s.createRecord i r hosts esc).reserve p else s.createRecord i r hosts esc

/-- Orders 3 to 8 of Table 8-3, and the post where none holds (R129 to R131). -/
def postChecked (p : HostId) (n : SourceId) (payload : BitVec 16) (receipt : Bool) (s : State) : State × Response :=
  let c := (s.route n).config
  if !c.enabled then (s, bare .disabled)
  else if !hostIn c.posters p then (s, bare .denied)
  else if c.depth ≤ (s.route n).liveCount then (s, bare .full)
  else if receipt && s.receiptsFull p then (s, bare .rcptfull)
  else match s.recipients c with
    | none => (s.setLastOutcome n .notarget, bare .notarget)
    | some (hosts, esc) =>
      match s.allocate? n with
      | none => (s, bare .noroom)
      | some i => (s.createPost p n i payload receipt hosts esc, okWith (s.idBytes i))

/-- The rule of POST (Table 8-3). -/
def postRule (p : HostId) (body : List Byte) (s : State) : State × Response :=
  if !s.usable p then (s, bare .state)
  else match body with
    | [source, hi, lo, request] =>
      match sourceOf source, yesNoOf request with
      | some n, some receipt => if n.val < 32 then (s, bare .badarg) else postChecked p n (payloadOf hi lo) receipt s
      | _, _ => (s, bare .badarg)
    | _ => (s, bare .badarg)

/-- POST (R129 to R131). -/
def execPost (p : HostId) (body : List Byte) (s : State) : Host.Outcome State Fault Refusal :=
  .next (s.hostCommand p .post body postRule)

/-- The bytes of a receipt (Table 11-7). -/
def receiptBytes (x : Receipt) : List Byte :=
  [x.generation, byte x.slot.val, byte x.source.val, byteOfOutcome x.outcome] ++ bytes32 x.time

/-- The rule of RECEIPT (R134). -/
def receiptRule (p : HostId) (body : List Byte) (s : State) : State × Response :=
  if !s.usable p then (s, bare .state)
  else if !body.isEmpty then (s, bare .badarg)
  else match (s.postUnit p).receipts with
    | [] => (s, bare .none)
    | x :: xs => (s.setPostUnit p { s.postUnit p with receipts := xs }, okWith (receiptBytes x))

/-- RECEIPT (R134). -/
def execReceipt (p : HostId) (body : List Byte) (s : State) : Host.Outcome State Fault Refusal :=
  .next (s.hostCommand p .receipt body receiptRule)

end Sys2Proof.Machine
end

