-- ==== Sys2Proof/Machine/Device.lean ====
section
/-! DEFINITION. The device as a whole: IDENT, STATUS, device reset, and the completion of whichever command a port
executes. -/

namespace Sys2Proof.Machine

/-- The rule of IDENT (R172). -/
def identRule (_p : HostId) (body : List Byte) (s : State) : State × Response :=
  if !body.isEmpty then (s, bare .badarg)
  else (s, okWith (Config.vendorCode ++ Config.partCode ++ [Config.revision]))

/-- IDENT (R172). -/
def execIdent (p : HostId) (body : List Byte) (s : State) : Host.Outcome State Fault Refusal :=
  .next (s.hostCommand p .ident body identRule)

/-- The general free count and the reserve free count (Table 1-1, note 1). -/
def State.freeCounts (s : State) : List Byte :=
  [byte (Config.generalCapacity - s.store.generalLive), byte (Config.systemCapacity - s.store.systemLive)]

/-- The answer of STATUS (R173, Table 11-7). -/
def State.statusBytes (s : State) : List Byte :=
  byteOfClockState s.clock.state :: bytes32 s.clock.timebase ++ s.freeCounts ++ [byte s.waitList.length]
    ++ allHosts.map (fun h => byteOfHostState (s.host h).state) ++ [byte s.administrator.val]

/-- The rule of STATUS (R173). -/
def statusRule (_p : HostId) (body : List Byte) (s : State) : State × Response :=
  if !body.isEmpty then (s, bare .badarg) else (s, okWith s.statusBytes)

/-- STATUS (R173). -/
def execStatus (p : HostId) (body : List Byte) (s : State) : Host.Outcome State Fault Refusal :=
  .next (s.hostCommand p .status body statusRule)

/-- The rule of each command (Table 11-8). -/
def ruleOf : Cmd → Rule
  | .ident => identRule
  | .status => statusRule
  | .attach => attachRule
  | .detach => detachRule
  | .power => powerRule
  | .level => levelRule
  | .take => takeRule
  | .peek => peekRule
  | .ack => ackRule
  | .detail => detailRule
  | .post => postRule
  | .receipt => receiptRule
  | .routeRead => routeReadRule
  | .routeWrite => routeWriteRule
  | .purge => purgeRule
  | .lineRead => lineReadRule
  | .lineWrite => lineWriteRule
  | .flushall => flushallRule
  | .restore => restoreRule

/-- The completion of the frame that port `p` executes (R168, steps 2 and 3). Where its command has not acted by a row of
its own, it acts here first (log entry 2); with nothing executing there is nothing to complete. -/
def State.complete (s : State) (p : HostId) : State :=
  match (s.port p).execution with
  | .idle => s
  | .answered r => s.placeAnswer p r
  | .received c body =>
    ((s.carryOut p body (ruleOf c)).placeAnswer p (ruleOf c p body (s.returnToRun p)).2)

/-- EXECUTION_COMPLETE (R168). -/
def execExecutionComplete (p : HostId) (s : State) : Host.Outcome State Fault Refusal := .next (s.complete p)

/-- Device reset: every block at its reset values, the straps naming the administrator, and a port whose chip select is low ignoring
the transaction in progress (R139, R156, R165); the commands that wait are the sender's and stay (log entry 17). -/
def State.deviceReset (s : State) (pins : ResetPins) : State :=
  { State.resetWith pins.straps with
    ports := vof (fun p => { Port.atReset with ignoring := hostIn pins.selected p })
    pending := s.pending }

/-- DEVICE_RESET (R139, R156, R165). -/
def execDeviceReset (pins : ResetPins) (s : State) : Host.Outcome State Fault Refusal := .next (s.deviceReset pins)

end Sys2Proof.Machine
end

