-- ==== Sys2Proof/Machine/Dispatch.lean ====
section
/-! DEFINITION. The meaning of each step of the table, one arm for each constructor. -/

namespace Sys2Proof.Machine

def exec (i : Instr) (s : State) : Host.Outcome State Fault Refusal :=
  match i with
  | .deviceReset pins => Sys2Proof.Machine.execDeviceReset pins s
  | .requestTransaction p bytes => Sys2Proof.Machine.execRequestTransaction p bytes s
  | .executionComplete p => Sys2Proof.Machine.execExecutionComplete p s
  | .fetch p clocked => Sys2Proof.Machine.execFetch p clocked s
  | .ident p body => Sys2Proof.Machine.execIdent p body s
  | .status p body => Sys2Proof.Machine.execStatus p body s
  | .attach p body => Sys2Proof.Machine.execAttach p body s
  | .detach p body => Sys2Proof.Machine.execDetach p body s
  | .power p body => Sys2Proof.Machine.execPower p body s
  | .level p body => Sys2Proof.Machine.execLevel p body s
  | .take p body => Sys2Proof.Machine.execTake p body s
  | .peek p body => Sys2Proof.Machine.execPeek p body s
  | .ack p body => Sys2Proof.Machine.execAck p body s
  | .detail p body => Sys2Proof.Machine.execDetail p body s
  | .post p body => Sys2Proof.Machine.execPost p body s
  | .receipt p body => Sys2Proof.Machine.execReceipt p body s
  | .routeRead p body => Sys2Proof.Machine.execRouteRead p body s
  | .routeWrite p body => Sys2Proof.Machine.execRouteWrite p body s
  | .purge p body => Sys2Proof.Machine.execPurge p body s
  | .lineRead p body => Sys2Proof.Machine.execLineRead p body s
  | .lineWrite p body => Sys2Proof.Machine.execLineWrite p body s
  | .flushall p body => Sys2Proof.Machine.execFlushall p body s
  | .restore p body => Sys2Proof.Machine.execRestore p body s
  | .millisecondTick => Sys2Proof.Machine.execMillisecondTick s
  | .sampleTick period levels order => Sys2Proof.Machine.execSampleTick period levels order s
  | .deadlineExpiry slot h => Sys2Proof.Machine.execDeadlineExpiry slot h s
  | .graceExpiry slot h => Sys2Proof.Machine.execGraceExpiry slot h s
  | .wakeTimerExpiry h => Sys2Proof.Machine.execWakeTimerExpiry h s
  | .refclkRisingEdge => Sys2Proof.Machine.execRefclkRisingEdge s
  | .lossDetection => Sys2Proof.Machine.execLossDetection s
  | .stabilityReached => Sys2Proof.Machine.execStabilityReached s

end Sys2Proof.Machine
end

