-- ==== Sys2Proof/WellFormed.lean ====
section
/-! DEFINITION. Which terms of `Instr` are steps the part can meet. A wrong body length, or a field value out
of range, is no ill-formedness: the part answers such a frame by name (BADARG, BADFRAME). -/

namespace Sys2Proof

/-- The most bytes a frame body holds (R166, Table 0-6). -/
def maxBody : Nat := 24

/-- A request transaction has a first byte, and it is not 0x00 (R165). -/
def requestBytesWf : List Byte → Bool
  | [] => false
  | b :: _ => b != 0

/-- The step is one the part can meet: a request transaction starts with a nonzero byte, a command frame's body
holds at most 24 bytes, and the order of a sample tick names no line twice. -/
def Instr.wf : Instr → Bool
  | .deviceReset _ => true
  | .requestTransaction _ bytes => requestBytesWf bytes
  | .executionComplete _ => true
  | .fetch _ _ => true
  | .ident _ body => decide (body.length ≤ maxBody)
  | .status _ body => decide (body.length ≤ maxBody)
  | .attach _ body => decide (body.length ≤ maxBody)
  | .detach _ body => decide (body.length ≤ maxBody)
  | .power _ body => decide (body.length ≤ maxBody)
  | .level _ body => decide (body.length ≤ maxBody)
  | .take _ body => decide (body.length ≤ maxBody)
  | .peek _ body => decide (body.length ≤ maxBody)
  | .ack _ body => decide (body.length ≤ maxBody)
  | .detail _ body => decide (body.length ≤ maxBody)
  | .post _ body => decide (body.length ≤ maxBody)
  | .receipt _ body => decide (body.length ≤ maxBody)
  | .routeRead _ body => decide (body.length ≤ maxBody)
  | .routeWrite _ body => decide (body.length ≤ maxBody)
  | .purge _ body => decide (body.length ≤ maxBody)
  | .lineRead _ body => decide (body.length ≤ maxBody)
  | .lineWrite _ body => decide (body.length ≤ maxBody)
  | .flushall _ body => decide (body.length ≤ maxBody)
  | .restore _ body => decide (body.length ≤ maxBody)
  | .millisecondTick => true
  | .sampleTick _ _ order => decide order.Nodup
  | .deadlineExpiry _ _ => true
  | .graceExpiry _ _ => true
  | .wakeTimerExpiry _ => true
  | .refclkRisingEdge => true
  | .lossDetection => true
  | .stabilityReached => true

end Sys2Proof
end

