-- ==== Sys2Proof/Safety.lean ====
section
/-! DEFINITION. What the statements speak of: how a command meets its port, what an event leaves alone, and the
invariants of a sound state. -/

namespace Sys2Proof.Machine

/-! ## A command at its port -/

/-- The response of port `p`'s last command: waiting for the completion, or in the buffer. -/
def State.answerOn (s : State) (p : HostId) : Option Response :=
  match (s.port p).execution with
  | .idle => (s.port p).buffer
  | .received _ _ => none
  | .answered r => some r

/-- The row of a host command. -/
def rowOf (c : Cmd) (p : HostId) (body : List Byte) : Instr :=
  match c with
  | .ident => .ident p body
  | .status => .status p body
  | .attach => .attach p body
  | .detach => .detach p body
  | .power => .power p body
  | .level => .level p body
  | .take => .take p body
  | .peek => .peek p body
  | .ack => .ack p body
  | .detail => .detail p body
  | .post => .post p body
  | .receipt => .receipt p body
  | .routeRead => .routeRead p body
  | .routeWrite => .routeWrite p body
  | .purge => .purge p body
  | .lineRead => .lineRead p body
  | .lineWrite => .lineWrite p body
  | .flushall => .flushall p body
  | .restore => .restore p body

/-- The length of each command's request body (Table 11-6). -/
def bodyLength : Cmd → Nat
  | .ident => 0
  | .status => 0
  | .attach => 5
  | .detach => 0
  | .power => 1
  | .level => 2
  | .take => 0
  | .peek => 0
  | .ack => 2
  | .detail => 3
  | .post => 4
  | .receipt => 0
  | .routeRead => 1
  | .routeWrite => 12
  | .purge => 1
  | .lineRead => 1
  | .lineWrite => 5
  | .flushall => 0
  | .restore => 0

/-- The bytes of a request make it a bad frame (R166, case 2). -/
def requestIsBad (bytes : List Byte) : Prop :=
  bytes.length < 3 ∨ 24 < (bytes.getD 1 0).toNat ∨ bytes.length ≠ 3 + (bytes.getD 1 0).toNat
    ∨ bytes.getLast? ≠ some (crc8 bytes.dropLast)

/-- The outcome is a next state, and this state satisfies `P`. -/
def Completes (o : Host.Outcome State Fault Refusal) (P : State → Prop) : Prop := ∃ t, o = .next t ∧ P t

/-- The body of a ROUTE_WRITE that carries source `n` and the fields `c` (Table 11-6). -/
def routeWriteBody (n : SourceId) (c : RouteConfig) : List Byte :=
  [byte n.val, byteOfBool c.enabled, byte c.owner.val, byteOfHostSet c.targets, byte c.priority, byteOfPolicy c.policy,
    byte c.depth, byte (c.deadline / 256), byte c.deadline, byteOfOptHost c.fallback, byteOfBool c.deepWake,
    byteOfHostSet c.posters]

/-- The body of a LINE_WRITE that carries line `n` and the configuration `c` (Table 11-6). -/
def lineWriteBody (n : LineId) (c : LineConfig) : List Byte :=
  [byte n.val, byteOfMode c.mode, byteOfPeriod c.period, byte c.q, byteOfGroup c.group]

/-- The fields of a route are in their ranges (Table 2-1). -/
def RouteConfig.inRange (c : RouteConfig) : Prop :=
  1 ≤ c.priority ∧ c.priority ≤ 15 ∧ 1 ≤ c.depth ∧ c.depth ≤ 4 ∧ c.deadline ≤ 1000

/-- The qualification count of a line is in its range (Table 6-1). -/
def LineConfig.inRange (c : LineConfig) : Prop := 1 ≤ c.q ∧ c.q ≤ 15

/-! ## What an event leaves alone -/

/-- The delivery state but for the ATTN line, which follows from the rest of the state (R101). -/
def Delivery.same (a b : Delivery) : Prop :=
  a.queue = b.queue ∧ a.stack = b.stack ∧ a.runningLevel = b.runningLevel ∧ a.threshold = b.threshold
    ∧ a.accepting = b.accepting

/-- The host record but for the WAKE line, which follows from the state (R155). -/
def HostRecord.same (a b : HostRecord) : Prop :=
  a.state = b.state ∧ a.graceLimit = b.graceLimit ∧ a.wakeLimit = b.wakeLimit ∧ a.wakeTimer = b.wakeTimer

/-- Every host's delivery state but for the ATTN lines is as before. -/
def SameDelivery (s t : State) : Prop := ∀ h, (t.deliv h).same (s.deliv h)

/-- Every host record but for the WAKE lines is as before. -/
def SameHosts (s t : State) : Prop := ∀ h, (t.host h).same (s.host h)

/-- Every port but `p` is as before. -/
def SameOtherPorts (p : HostId) (s t : State) : Prop := ∀ q, q ≠ p → t.port q = s.port q

/-- Lines, clock, administrator, queue of commands and the writable fields of every route are as before. -/
def SameRest (s t : State) : Prop :=
  t.lines = s.lines ∧ t.clock = s.clock ∧ t.administrator = s.administrator ∧ t.pending = s.pending
    ∧ ∀ n, (t.route n).config = (s.route n).config

/-- The record with its copies blotted out. -/
def Record.withoutCopies (r : Record) : Record := { r with copies := vof (fun _ => none) }

/-- Every slot keeps its generation and its record but for the copies, and the pool counts stay. -/
def SameRecordsButCopies (s t : State) : Prop :=
  (∀ i, (t.slot i).generation = (s.slot i).generation
      ∧ (t.record? i).map Record.withoutCopies = (s.record? i).map Record.withoutCopies)
    ∧ t.store.generalLive = s.store.generalLive ∧ t.store.systemLive = s.store.systemLive
    ∧ t.store.births = s.store.births

/-! ## The making of a record -/

/-- The members of a route's target set that are usable, ascending (R48). -/
def State.usableTargets (s : State) (c : RouteConfig) : List HostId :=
  allHosts.filter (fun h => hostIn c.targets h && s.usable h)

/-- The hosts that a record of the route goes to: the usable targets, or the usable fallback host alone where there is no usable
target, the record being fallback-only then (R48). -/
def Recipients (s : State) (c : RouteConfig) (hosts : List HostId) (fallbackOnly : Bool) : Prop :=
  (hosts = s.usableTargets c ∧ hosts ≠ [] ∧ fallbackOnly = false)
    ∨ (s.usableTargets c = [] ∧ ∃ f, c.fallback = some f ∧ s.usable f = true ∧ hosts = [f] ∧ fallbackOnly = true)

/-- No target is usable, and the fallback host is absent or not usable (R48). -/
def NoRecipient (s : State) (c : RouteConfig) : Prop :=
  s.usableTargets c = [] ∧ ∀ f, c.fallback = some f → s.usable f = false

/-- Slot `i` is the lowest-numbered FREE slot (R4). -/
def LowestFree (s : State) (i : SlotId) : Prop := s.record? i = none ∧ ∀ j, j < i → s.record? j ≠ none

/-- The state of a copy made for a host in this state (Table 3-3). -/
def madeCopyState (x : HostState) (deepWake : Bool) : CopyState :=
  if x = .run ∨ deepWake = true then .pending else .parked

/-- The record made for source `n` as its route stands, with a copy for each of `hosts` (R5, R50, Table 3-3). -/
def madeRecord (s : State) (n : SourceId) (k : Particulars) (delayed : Bool) (repeats : Nat) (hosts : List HostId)
    (fallbackOnly : Bool) : Record :=
  { source := n
    particulars := k
    priority := (s.route n).config.priority
    policy := (s.route n).config.policy
    deadline := (s.route n).config.deadline
    fallback := (s.route n).config.fallback
    deepWake := (s.route n).config.deepWake
    arrival := s.clock.timebase
    delayed := delayed
    repeats := repeats
    escalated := fallbackOnly
    covered := none
    purged := false
    copies := vof (fun h =>
      if h ∈ hosts then
        some { state := madeCopyState (s.host h).state (s.route n).config.deepWake
               deadline :=
                 if fallbackOnly = true ∨ (s.route n).config.deadline = 0 then none
                 else some (s.route n).config.deadline
               grace := none
               escalation := fallbackOnly }
      else none)
    birth := s.store.births }

/-- `new` is `old` with slot `i` directly after its last entry whose priority is at least `i`'s, or at the front (R87). -/
def Inserted (prio : SlotId → Nat) (i : SlotId) (old new : List SlotId) : Prop :=
  ∃ ahead behind, old = ahead ++ behind ∧ new = ahead ++ i :: behind ∧ (∀ x ∈ behind, prio x < prio i)
    ∧ ∀ x ∈ ahead.getLast?, prio i ≤ prio x

/-- A host after a copy was made for it: DEEP becomes WAKING where the copy is PENDING, with the wake timer at the wake limit
(R148). -/
def HostRecord.woken (x : HostRecord) (deepWake : Bool) : HostRecord :=
  if x.state = .deep ∧ deepWake = true then { x with state := .waking, wakeTimer := some x.wakeLimit } else x

/-- `t` is `s` after record `r` was made in slot `i` with copies for `hosts` (R4, R14, R50, R51); the lines are not yet
driven. -/
structure Created (s t : State) (i : SlotId) (r : Record) (hosts : List HostId) : Prop where
  slot : t.slot i = { generation := (s.slot i).generation, record := some r }
  otherSlots : ∀ j, j ≠ i → t.slot j = s.slot j
  generalLive : t.store.generalLive = s.store.generalLive + (if isSystem r.source then 0 else 1)
  systemLive : t.store.systemLive = s.store.systemLive + (if isSystem r.source then 1 else 0)
  births : t.store.births = s.store.births + 1
  route : t.route r.source = { s.route r.source with liveCount := (s.route r.source).liveCount + 1 }
  otherRoutes : ∀ n, n ≠ r.source → t.route n = s.route n
  offered : ∀ h ∈ hosts, Inserted t.priorityOf i (s.deliv h).queue (t.deliv h).queue
    ∧ t.deliv h = { s.deliv h with queue := (t.deliv h).queue }
  otherQueues : ∀ h, h ∉ hosts → t.deliv h = s.deliv h
  woken : ∀ h ∈ hosts, t.host h = (s.host h).woken r.deepWake
  otherHosts : ∀ h, h ∉ hosts → t.host h = s.host h
  waitList : t.waitList = s.waitList
  posts : t.posts = s.posts
  ports : t.ports = s.ports
  rest : SameRest s t

/-- An escalation attempt for record `r` succeeds, `f` being the fallback host that it copied (R77). -/
def Escalates (s : State) (r : Record) (f : HostId) : Prop :=
  r.fallback = some f ∧ r.escalated = false ∧ r.purged = false ∧ s.usable f = true ∧ r.copy f = none
    ∧ (r.policy = .any → ∀ h c, r.copy h = some c → c.state ≠ .acked)

/-! ## The end of records -/

/-- The record is POSTED by `h` with its receipt RESERVED. -/
def Record.reservedBy (h : HostId) (r : Record) : Bool :=
  match r.particulars with
  | .posted _ poster .reserved => poster == h
  | _ => false

/-- The record as FLUSHALL retires it: purged, each copy that was not terminal WITHDRAWN without timers (R21). -/
def Record.flushed (r : Record) : Record :=
  { r with
    purged := true
    copies := vof (fun h => (r.copy h).map (fun c =>
      if c.state.terminal then c else { c with state := .withdrawn, deadline := none, grace := none })) }

/-- FLUSHALL raises line `l` anew: its route is enabled, it is in a level mode with its level active, and its first sample is not
pending (R22, R110). -/
def Rearmed (s : State) (l : LineId) : Prop :=
  (s.route (lineSource l)).config.enabled = true ∧ (s.line l).config.mode.isActive (s.line l).qual.level = true
    ∧ (s.line l).qual.firstPending = false

/-- What host `h` has no part in: no receipt, no reservation, nothing offered or in service, no RESERVED record of its posting
(R136, R152). -/
def Cleared (t : State) (h : HostId) : Prop :=
  (t.postUnit h).receipts = [] ∧ (t.postUnit h).reservations = 0
    ∧ (t.deliv h).queue = [] ∧ (t.deliv h).stack = [] ∧ (t.deliv h).runningLevel = 0
    ∧ (∀ i c, t.copy? i h = some c → c.state.terminal = true)
    ∧ ∀ i r payload, t.record? i = some r → r.particulars ≠ .posted payload h .reserved

/-! ## Invariants -/

/-- The number of LIVE slots whose record satisfies `f`. -/
def State.countRecords (s : State) (f : Record → Bool) : Nat :=
  allSlots.countP (fun i => match s.record? i with
    | none => false
    | some r => f r)

/-- ATTN_n and WAKE_n stand by their conditions (R101, R155). -/
abbrev State.LinesDriven (s : State) : Prop :=
  ∀ h, (s.deliv h).attnLine = s.attnCondition h ∧ (s.host h).wakeLine = s.wakeCondition h

/-- A route's fields are in their ranges, posters are {} below source 32, and a system route has depth 1 and the
administrator as owner (R24, R28, Table 2-1). -/
abbrev State.RoutesLegal (s : State) : Prop :=
  ∀ n, 1 ≤ (s.route n).config.priority ∧ (s.route n).config.priority ≤ 15
    ∧ 1 ≤ (s.route n).config.depth ∧ (s.route n).config.depth ≤ 4
    ∧ (s.route n).config.deadline ≤ 1000
    ∧ (n.val < 32 → (s.route n).config.posters = 0)
    ∧ (isSystem n = true → (s.route n).config.depth = 1 ∧ (s.route n).config.owner = s.administrator)

/-- A line's Q is 1 to 15 with the disagreement count below it, a line in OFF has its qualification state cleared, a level
line is ungrouped and its route has depth at most 1, and no group has more than 8 members (R104, R105, R106, R108, R119). -/
abbrev State.LinesLegal (s : State) : Prop :=
  (∀ n, 1 ≤ (s.line n).config.q ∧ (s.line n).config.q ≤ 15
    ∧ (s.line n).qual.disagreement < (s.line n).config.q
    ∧ ((s.line n).config.mode = .off →
        (s.line n).qual = { lastSample := false, level := false, disagreement := 0, firstPending := false })
    ∧ ((s.line n).config.mode.isLevel = true →
        (s.line n).config.group = none ∧ (s.route (lineSource n)).config.depth ≤ 1))
  ∧ ∀ g, (s.members g).length ≤ 8

/-- The wait list holds at most one entry per source, of sources 0 to 27 only; a pending count is 1 to 4, and 1 for a
group; a group's entry lists 1 to 8 distinct lines and a line's none (R46, R53, Table 3-4). -/
abbrev State.WaitListLegal (s : State) : Prop :=
  (s.waitList.map (fun e => e.source)).Nodup
  ∧ ∀ e ∈ s.waitList, e.source.val < 28 ∧ 1 ≤ e.pendingCount ∧ e.pendingCount ≤ 4 ∧ e.repeats ≤ 255
      ∧ e.members.Nodup ∧ e.members.length ≤ 8
      ∧ (isGroup e.source = true → e.pendingCount = 1 ∧ 1 ≤ e.members.length)
      ∧ (isGroup e.source = false → e.members = [])

/-- The pool counts and every route's live count are the numbers of live records they stand for (R3, R14). -/
abbrev State.CountsAgree (s : State) : Prop :=
  s.store.generalLive = s.countRecords (fun r => !isSystem r.source)
  ∧ s.store.systemLive = s.countRecords (fun r => isSystem r.source)
  ∧ ∀ n, (s.route n).liveCount = s.countRecords (fun r => r.source == n)

/-- At most 44 general records live, at most one record of each system source, and the general pool full while the wait
list is not empty (R3, R53). -/
abbrev State.PoolLegal (s : State) : Prop :=
  s.CountsAgree ∧ s.store.generalLive ≤ 44
  ∧ (∀ n, isSystem n = true → (s.route n).liveCount ≤ 1)
  ∧ (s.waitList ≠ [] → s.store.generalLive = 44)

/-- Host `h`'s copy of the record in slot `i` is offered. -/
def State.offeredAt (s : State) (h : HostId) (i : SlotId) : Bool :=
  match s.copy? i h with
  | none => false
  | some c => c.offered

/-- Host `h`'s copy of the record in slot `i` is in service. -/
def State.inServiceAt (s : State) (h : HostId) (i : SlotId) : Bool :=
  match s.copy? i h with
  | none => false
  | some c => c.inService

/-- Queues hold exactly the offered copies in non-increasing order of priority; stacks hold exactly the copies in service, at
most 4, priorities strictly falling from the top, and give the running levels (R62, R87, R92). -/
abbrev State.DeliveryAgrees (s : State) : Prop :=
  ∀ h, (∀ i, i ∈ (s.deliv h).queue ↔ s.offeredAt h i = true) ∧ (s.deliv h).queue.Nodup
    ∧ (s.deliv h).queue.Pairwise (fun i j => s.priorityOf j ≤ s.priorityOf i)
    ∧ (∀ i, i ∈ (s.deliv h).stack ↔ s.inServiceAt h i = true)
    ∧ (s.deliv h).stack.Pairwise (fun i j => s.priorityOf j < s.priorityOf i)
    ∧ (s.deliv h).stack.length ≤ 4
    ∧ (s.deliv h).runningLevel = s.levelOf (s.deliv h).stack

/-- Every live record holds a non-terminal copy (R60). -/
abbrev State.RecordsUnfinished (s : State) : Prop :=
  ∀ i, match s.record? i with
    | none => True
    | some r => r.finished = false

/-- An OFFLINE or LOST host holds no non-terminal copy, no receipt and no reservation, and the wake timer runs exactly in
WAKING (R140, R148). -/
abbrev State.AbsentHostsClear (s : State) : Prop :=
  ∀ h, ((s.host h).wakeTimer.isSome = true ↔ (s.host h).state = .waking)
    ∧ (s.usable h = false →
        (s.postUnit h).receipts = [] ∧ (s.postUnit h).reservations = 0
        ∧ ∀ i, s.offeredAt h i = false ∧ s.inServiceAt h i = false)

/-- A host's reservations are the RESERVED records it posted, and with its waiting receipts they fill at most 8 places
(R128). -/
abbrev State.ReceiptsLegal (s : State) : Prop :=
  ∀ h, (s.postUnit h).reservations = s.countRecords (Record.reservedBy h)
    ∧ (s.postUnit h).receipts.length + (s.postUnit h).reservations ≤ 8

/-- The clock's counts are within their ranges, an ABSENT reference has measure 0, REF has the reference PRESENT, and START
has not found it stable (Table 10-1, R160, R161). -/
abbrev State.ClockLegal (s : State) : Prop :=
  s.clock.stability ≤ 4000 ∧ s.clock.lossWindow < 8 ∧ s.clock.dividerUs10 < 40 ∧ s.clock.dividerUs100 < 400
  ∧ s.clock.dividerMs1 < 4000
  ∧ (s.clock.refPresent = false → s.clock.stability = 0)
  ∧ (s.clock.state = .ref → s.clock.refPresent = true)
  ∧ (s.clock.state = .start → s.clock.stability < 4000)

end Sys2Proof.Machine
end

