-- ==== Sys2Proof/Certificates/Slice0/Obligations.lean ====
section
/-! DEFINITION. The statements for the provers. In a statement about a host command, `w` is the state that the command meets: the
requester's return from DEEP or WAKING to RUN has been made (R147). `s.answered x p body r` is `x` with port `p` holding the
answer `r` and the ATTN and WAKE lines standing by their conditions. -/

open Sys2Proof Sys2Proof.Machine

/-! ## Frames and encodings -/

/-- A request frame is judged valid exactly if it is the frame of a command with a body of at most 24 bytes (R166, R167,
Tables 11-3 and 11-8). -/
def Obligations.ValidFramesAreRequestFrames : Prop :=
  ∀ (bytes : List Byte) (c : Cmd) (body : List Byte),
    judgeFrame bytes = .valid c body ↔ bytes = requestFrame c body ∧ body.length ≤ 24

/-- The bytes of a ROUTE_READ or LINE_READ answer read back as the entry, so that a host which writes them back changes nothing
(Tables 11-5, 11-6 and 11-7). -/
def Obligations.ReadAnswersReadBack : Prop :=
  (∀ (s : State) (n : SourceId), (s.route n).config.inRange →
    match s.routeBytes n with
    | [b0, b1, b2, b3, b4, b5, b6, b7, b8, b9, b10, b11, _, _, _] =>
      sourceOf b0 = some n ∧ routeConfigOf b1 b2 b3 b4 b5 b6 b7 b8 b9 b10 b11 = some (s.route n).config
    | _ => False)
  ∧ ∀ (s : State) (n : LineId), (s.line n).config.inRange →
    match s.lineBytes n with
    | [b0, b1, b2, b3, b4, _, _, _, _] => lineOf b0 = some n ∧ lineConfigOf b1 b2 b3 b4 = some (s.line n).config
    | _ => False

/-! ## Steps -/

/-- One step takes the command at the front of the queue and runs it with the queue's rest. -/
def Obligations.StepRunsTheFrontCommand : Prop :=
  ∀ (c : Instr) (s : State), step { s with pending := c :: s.pending } = exec c s

/-- With no command waiting, one cycle of the internal oscillator passes and only the clock's counts change: the stability
measure and the loss window rise while REFCLK is PRESENT, the dividers rise in START and BACKUP, and no count passes the last value
before its event. The model's choice (log entry 5). -/
def Obligations.EmptyQueuePassesOneCycle : Prop :=
  ∀ s : State, s.pending = [] →
    Completes (step s) fun t =>
      t = { s with clock := t.clock } ∧ t.clock.state = s.clock.state ∧ t.clock.refPresent = s.clock.refPresent
      ∧ t.clock.timebase = s.clock.timebase
      ∧ t.clock.stability =
          (if s.clock.refPresent = true ∧ s.clock.stability < 3999 then s.clock.stability + 1 else s.clock.stability)
      ∧ t.clock.lossWindow =
          (if s.clock.refPresent = true ∧ s.clock.lossWindow < 7 then s.clock.lossWindow + 1 else s.clock.lossWindow)
      ∧ t.clock.dividerUs10 =
          (if s.clock.state ≠ .ref ∧ s.clock.dividerUs10 < 39 then s.clock.dividerUs10 + 1 else s.clock.dividerUs10)
      ∧ t.clock.dividerUs100 =
          (if s.clock.state ≠ .ref ∧ s.clock.dividerUs100 < 399 then s.clock.dividerUs100 + 1
           else s.clock.dividerUs100)
      ∧ t.clock.dividerMs1 =
          (if s.clock.state ≠ .ref ∧ s.clock.dividerMs1 < 3999 then s.clock.dividerMs1 + 1 else s.clock.dividerMs1)

/-- Every command of the table, in every state and with every operand, answers a next state, and leaves the commands that wait
as they are: the queue is the sender's, which DEVICE_RESET keeps too, by the model's choice (log entry 17). -/
def Obligations.EveryCommandCompletes : Prop :=
  ∀ (c : Instr) (s : State), Completes (exec c s) fun t => t.pending = s.pending

/-! ## Ports -/

/-- The end of a request transaction. One whose chip select fell before device reset ended is ignored, and the port listens from
then on (R165). Any other is one of the four cases of R166: discarded while a frame executes; BADFRAME; BADCMD; or a valid frame,
at which a sleeping host returns to RUN and execution begins. -/
def Obligations.RequestsAreJudged : Prop :=
  ∀ (s : State) (p : HostId) (code : Byte) (rest bytes : List Byte), code ≠ 0 → bytes = code :: rest →
    ((s.port p).ignoring = true →
      exec (.requestTransaction p bytes) s = .next (s.setPort p { s.port p with ignoring := false }))
    ∧ ((s.port p).ignoring = false →
      ((s.port p).executing = true →
        exec (.requestTransaction p bytes) s =
          .next (s.setPort p { s.port p with dropped := true, sdo := List.replicate bytes.length 0 }))
      ∧ ((s.port p).executing = false → requestIsBad bytes →
        exec (.requestTransaction p bytes) s =
          .next (s.setPort p
            { s.port p with
              buffer := some { result := .badframe, body := [] }, dropped := false
              sdo := List.replicate bytes.length 0 }))
      ∧ ((s.port p).executing = false → ¬ requestIsBad bytes → cmdOf code = none →
        exec (.requestTransaction p bytes) s =
          .next (s.setPort p
            { s.port p with
              buffer := some { result := .badcmd, body := [] }, dropped := false
              sdo := List.replicate bytes.length 0 }))
      ∧ ∀ c, (s.port p).executing = false → ¬ requestIsBad bytes → cmdOf code = some c →
        exec (.requestTransaction p bytes) s =
          .next ((s.returnToRun p).setPort p
            { s.port p with
              execution := .received c (bytes.drop 2).dropLast, dropped := false
              sdo := List.replicate bytes.length 0 }).driveLines)

/-- The return of a host in DEEP or WAKING to RUN (R147, R68): its wake timer is discarded and its PARKED copies are PENDING with
the counts they kept; its queue keeps its order, and nothing of another host changes. A host in another state stays as
it is. -/
def Obligations.SleepingHostReturnsToRun : Prop :=
  ∀ (s w : State) (p : HostId), w = s.returnToRun p →
    ((s.host p).state ≠ .deep → (s.host p).state ≠ .waking → w = s)
    ∧ ((s.host p).state = .deep ∨ (s.host p).state = .waking →
      w.host p = { s.host p with state := .run, wakeTimer := none }
      ∧ (∀ h, h ≠ p → w.host h = s.host h)
      ∧ (∀ i h, w.copy? i h =
          if h = p then (s.copy? i h).map (fun c => { c with state := if c.state = .parked then .pending else c.state })
          else s.copy? i h)
      ∧ SameRecordsButCopies s w ∧ w.delivery = s.delivery ∧ w.routes = s.routes ∧ w.waitList = s.waitList
      ∧ w.posts = s.posts ∧ w.ports = s.ports ∧ SameRest s w)

/-- The completion places the answer in the response buffer and ends execution (R168, step 3). A frame whose command has not
acted by a row of its own acts first (the model's choice, log entry 2); a port that executes nothing completes
nothing. -/
def Obligations.CompletionPlacesTheAnswer : Prop :=
  ∀ (s : State) (p : HostId),
    (∀ r, (s.port p).execution = .answered r →
      exec (.executionComplete p) s = .next (s.setPort p { s.port p with buffer := some r, execution := .idle }))
    ∧ ((s.port p).execution = .idle → exec (.executionComplete p) s = .next s)
    ∧ ∀ c body, (s.port p).execution = .received c body →
      Completes (exec (rowOf c p body) s) fun u => exec (.executionComplete p) s = exec (.executionComplete p) u

/-- The row of a host command and its frame (R166, R168; log entry 2). On a port that executes nothing, with a body that fits a
frame, the row does what the request transaction of its frame and the completion do in turn. On a port that is not ready for it
(the body too long, another frame executing, this one's completion due, or a transaction to ignore after a reset) the row does
what the request transaction alone does: a bad frame, a dropped request, or an ignored transaction. -/
def Obligations.RowIsItsRequestAndCompletion : Prop :=
  ∀ (s : State) (p : HostId) (c : Cmd) (body : List Byte),
    ((s.port p).execution = .idle → body.length ≤ 24 →
      Completes (exec (.requestTransaction p (requestFrame c body)) s) fun u =>
        exec (.executionComplete p) u = exec (rowOf c p body) s)
    ∧ (s.ready p c body = false →
      exec (rowOf c p body) s = exec (.requestTransaction p (requestFrame c body)) s)

/-- A fetch of `n` bytes drives the selected response with its flags byte as they stand, padded with 0x00, and changes nothing
else (R169, R170, Table 11-4). A transaction whose first byte is 0x00 is a fetch, and one with no whole byte changes nothing. A
transaction of any kind whose chip select fell before device reset ended is ignored, and the port listens from then on (R165). -/
def Obligations.FetchDrivesTheResponse : Prop :=
  ∀ (s : State) (p : HostId) (n : Nat) (r : Response) (code : Nat),
    r = (if (s.port p).executing = true then { result := .notready, body := [] }
         else match (s.port p).buffer with
           | none => { result := .noresp, body := [] }
           | some x => x) →
    code = (match (s.host p).state with
      | .offline => 0
      | .run => if (s.deliv p).attnLine = true then 5 else 1
      | .deep => 2
      | .waking => 3
      | .lost => 4) →
    ((s.port p).ignoring = false →
      exec (.fetch p n) s =
        .next (s.setPort p
          { s.port p with
            sdo := ((responseFrame r
                (byte ((s.postUnit p).receipts.length * 16 + (if (s.port p).dropped = true then 8 else 0) + code)))
              ++ List.replicate n 0).take n })
      ∧ exec (.requestTransaction p []) s = .next s)
    ∧ ((s.port p).ignoring = true →
      exec (.fetch p n) s = .next (s.setPort p { s.port p with ignoring := false })
      ∧ exec (.requestTransaction p []) s = .next (s.setPort p { s.port p with ignoring := false }))
    ∧ ∀ rest : List Byte, rest.length = n → exec (.requestTransaction p (0 :: rest)) s = exec (.fetch p n) s

/-! ## Every host command -/

/-- A command from a host in OFFLINE or LOST is answered STATE with no effect, except ATTACH, STATUS and IDENT (R140, R168). -/
def Obligations.UnattachedHostsAreAnsweredState : Prop :=
  ∀ (s : State) (p : HostId) (c : Cmd) (body : List Byte), s.ready p c body = true → s.usable p = false →
    c ≠ .attach → c ≠ .status → c ≠ .ident →
    exec (rowOf c p body) s = .next (s.answered s p body { result := .state, body := [] })

/-- A body whose length is not the command's is answered BADARG with no effect, once the requester is attached where the command
asks it, and is the administrator for FLUSHALL and RESTORE (Table 11-6 and the order of each command's checks). -/
def Obligations.WrongBodyLengthIsBadarg : Prop :=
  ∀ (s w : State) (p : HostId) (c : Cmd) (body : List Byte), s.ready p c body = true → w = s.returnToRun p →
    (w.usable p = true ∨ c = .attach ∨ c = .status ∨ c = .ident) →
    (c = .flushall ∨ c = .restore → s.administrator = p) → body.length ≠ bodyLength c →
    exec (rowOf c p body) s = .next (s.answered w p body { result := .badarg, body := [] })

/-- IDENT and STATUS are answered to any host in any state, with BADARG for a body that is not empty (R172, R173). -/
def Obligations.IdentAndStatusAnswer : Prop :=
  ∀ (s w : State) (p : HostId) (body : List Byte), w = s.returnToRun p →
    (s.ready p .ident body = true →
      exec (.ident p body) s = .next (s.answered w p body
        (if body = [] then { result := .ok, body := [0x0D, 0x41, 0x04, 0x16, 1] } else { result := .badarg, body := [] })))
    ∧ (s.ready p .status body = true →
      exec (.status p body) s = .next (s.answered w p body
        (if body = [] then
          { result := .ok
            body := byteOfClockState w.clock.state :: (bytes32 w.clock.timebase
              ++ [byte (44 - w.store.generalLive), byte (4 - w.store.systemLive), byte w.waitList.length,
                byteOfHostState (w.host 0).state, byteOfHostState (w.host 1).state, byteOfHostState (w.host 2).state,
                byteOfHostState (w.host 3).state, byte w.administrator.val]) }
         else { result := .badarg, body := [] })))

/-! ## Attachment and power -/

/-- ATTACH (R141, R142): refused BADARG for a value out of range; from OFFLINE or LOST it sets the limits, RUN, threshold 0 and
accepting yes, and from LOST it then raises HOSTBACK; from RUN without FRESH it is refused STATE. -/
def Obligations.AttachOpensASession : Prop :=
  ∀ (s w : State) (p : HostId) (gHi gLo wHi wLo fresh : Byte) (grace wake : Nat) (opened : State),
    s.ready p .attach [gHi, gLo, wHi, wLo, fresh] = true → w = s.returnToRun p →
    grace = gHi.toNat * 256 + gLo.toNat → wake = wHi.toNat * 256 + wLo.toNat →
    opened =
      (w.setHost p { w.host p with state := .run, graceLimit := grace, wakeLimit := wake, wakeTimer := none }).setDeliv p
        { w.deliv p with threshold := 0, accepting := true } →
    (grace = 0 ∨ 1000 < grace ∨ wake = 0 ∨ 1000 < wake ∨ 1 < fresh.toNat →
      exec (.attach p [gHi, gLo, wHi, wLo, fresh]) s =
        .next (s.answered w p [gHi, gLo, wHi, wLo, fresh] { result := .badarg, body := [] }))
    ∧ (1 ≤ grace → grace ≤ 1000 → 1 ≤ wake → wake ≤ 1000 → fresh.toNat ≤ 1 →
      ((w.host p).state = .offline →
        exec (.attach p [gHi, gLo, wHi, wLo, fresh]) s =
          .next (s.answered opened p [gHi, gLo, wHi, wLo, fresh] { result := .ok, body := [] }))
      ∧ ((w.host p).state = .lost →
        exec (.attach p [gHi, gLo, wHi, wLo, fresh]) s =
          .next (s.answered (opened.admission (.hostback p)) p [gHi, gLo, wHi, wLo, fresh] { result := .ok, body := [] }))
      ∧ ((w.host p).state = .run → fresh = 0 →
        exec (.attach p [gHi, gLo, wHi, wLo, fresh]) s =
          .next (s.answered w p [gHi, gLo, wHi, wLo, fresh] { result := .state, body := [] })))

/-- DETACH, and ATTACH with FRESH from RUN (R143, R144): the host is held as not usable while its cleanup is made; DETACH leaves
it OFFLINE and is refused STATE with copies in service; FRESH ends in RUN with the new limits, threshold 0 and accepting
yes. -/
def Obligations.DetachAndFreshCleanUp : Prop :=
  ∀ (s w cleaned : State) (p : HostId), w = s.returnToRun p →
    cleaned = (w.setHost p { w.host p with state := .offline }).cleanup p →
    (s.ready p .detach [] = true → w.usable p = true →
      ((w.deliv p).stack ≠ [] →
        exec (.detach p []) s = .next (s.answered w p [] { result := .state, body := [] }))
      ∧ ((w.deliv p).stack = [] →
        exec (.detach p []) s = .next (s.answered cleaned p [] { result := .ok, body := [] })))
    ∧ ∀ (gHi gLo wHi wLo : Byte) (grace wake : Nat), s.ready p .attach [gHi, gLo, wHi, wLo, 1] = true →
      grace = gHi.toNat * 256 + gLo.toNat → wake = wHi.toNat * 256 + wLo.toNat →
      1 ≤ grace → grace ≤ 1000 → 1 ≤ wake → wake ≤ 1000 → (w.host p).state = .run →
      exec (.attach p [gHi, gLo, wHi, wLo, 1]) s =
        .next (s.answered
          ((cleaned.setHost p
            { cleaned.host p with state := .run, graceLimit := grace, wakeLimit := wake, wakeTimer := none }).setDeliv p
            { cleaned.deliv p with threshold := 0, accepting := true })
          p [gHi, gLo, wHi, wLo, 1] { result := .ok, body := [] })

/-- Host cleanup of a host that is not usable (R152, R136): it keeps no receipt, no reservation, no place in its queue or stack,
no non-terminal copy and no RESERVED record; a copy of its in a record that stays live ends WITHDRAWN from STALE and EXPIRED from
the other states; its host record, threshold and accepting flag stay. For each copy that ends EXPIRED escalation is attempted (R76
to R78): where its conditions hold, the record stays live with a copy for the fallback host, which is queued and wakes a host in
DEEP, and with the cleaned host covered; elsewhere a record that stays live keeps its other copies, its escalated flag and its
covered host. -/
def Obligations.CleanupEndsTheHostsPart : Prop :=
  ∀ (s t : State) (h : HostId), s.usable h = false → t = s.cleanup h →
    Cleared t h ∧ t.host h = s.host h ∧ (t.deliv h).threshold = (s.deliv h).threshold
    ∧ (t.deliv h).accepting = (s.deliv h).accepting
    ∧ (∀ i c, s.copy? i h = some c → c.state.terminal = false → (t.slot i).generation = (s.slot i).generation →
        (t.copy? i h).map (fun x => x.state) = some (if c.state = .stale then .withdrawn else .expired))
    ∧ (∀ i r c f, s.record? i = some r → r.copy h = some c → c.state.terminal = false → c.state ≠ .stale →
        Escalates s r f →
        (t.slot i).generation = (s.slot i).generation
        ∧ (∃ r', t.record? i = some r' ∧ r'.escalated = true ∧ r'.covered = some h
            ∧ r'.copy f = some
                { state := madeCopyState (s.host f).state r.deepWake, deadline := none, grace := none, escalation := true }
            ∧ r'.copy h = some { c with state := .expired, deadline := none, grace := none }
            ∧ ∀ k, k ≠ h → k ≠ f → r'.copy k = r.copy k)
        ∧ i ∈ (t.deliv f).queue
        ∧ ((s.host f).state = .deep → r.deepWake = true →
            t.host f = { s.host f with state := .waking, wakeTimer := some (s.host f).wakeLimit }))
    ∧ (∀ i r r', s.record? i = some r → t.record? i = some r' → (t.slot i).generation = (s.slot i).generation →
        (∀ c, r.copy h = some c → c.state.terminal = true ∨ c.state = .stale) ∨ (∀ f, ¬ Escalates s r f) →
        r'.escalated = r.escalated ∧ r'.covered = r.covered ∧ ∀ k, k ≠ h → r'.copy k = r.copy k)
    ∧ t.ports = s.ports ∧ SameRest s t

/-- POWER (R145): RUN is accepted with no effect; DEEP is refused STATE with copies in service and BUSY with a PENDING copy of a
deep-wake record offered; another value is BADARG. -/
def Obligations.PowerIsChecked : Prop :=
  ∀ (s w : State) (p : HostId) (b : Byte), s.ready p .power [b] = true → w = s.returnToRun p → w.usable p = true →
    (1 < b.toNat → exec (.power p [b]) s = .next (s.answered w p [b] { result := .badarg, body := [] }))
    ∧ (b = 0 → exec (.power p [b]) s = .next (s.answered w p [b] { result := .ok, body := [] }))
    ∧ (b = 1 → (w.deliv p).stack ≠ [] →
      exec (.power p [b]) s = .next (s.answered w p [b] { result := .state, body := [] }))
    ∧ (b = 1 → (w.deliv p).stack = [] →
      (∃ i ∈ (w.deliv p).queue, w.isPending p i = true ∧ ∃ r, w.record? i = some r ∧ r.deepWake = true) →
      exec (.power p [b]) s = .next (s.answered w p [b] { result := .busy, body := [] }))

/-- An accepted POWER DEEP puts the host in DEEP, parks its PENDING copies in place with their counts kept, deasserts its ATTN line
and changes nothing else (R146, R68). -/
def Obligations.PowerDeepParksTheCopies : Prop :=
  ∀ (s w : State) (p : HostId), s.ready p .power [1] = true → w = s.returnToRun p → w.usable p = true →
    (w.deliv p).stack = [] →
    (∀ i ∈ (w.deliv p).queue, w.isPending p i = true → ∀ r, w.record? i = some r → r.deepWake = false) →
    Completes (exec (.power p [1]) s) fun t =>
      t.answerOn p = some { result := .ok, body := [] } ∧ (t.host p).state = .deep
      ∧ (t.host p).same { w.host p with state := .deep } ∧ (t.host p).wakeLine = false ∧ (t.deliv p).attnLine = false
      ∧ (∀ h, h ≠ p → (t.host h).same (w.host h))
      ∧ (∀ i h, t.copy? i h =
          if h = p then (w.copy? i h).map (fun c => { c with state := if c.state = .pending then .parked else c.state })
          else w.copy? i h)
      ∧ SameRecordsButCopies w t ∧ SameDelivery w t ∧ t.routes = w.routes ∧ t.waitList = w.waitList
      ∧ t.posts = w.posts ∧ SameOtherPorts p w t ∧ SameRest w t

/-! ## Offer queues and service stacks -/

/-- LEVEL (R91): STATE, BADARG, or both values replaced with ATTN judged afresh and nothing else changed. -/
def Obligations.LevelReplacesBothValues : Prop :=
  ∀ (s w : State) (p : HostId) (body : List Byte), s.ready p .level body = true → w = s.returnToRun p →
    (w.usable p = false → exec (.level p body) s = .next (s.answered w p body { result := .state, body := [] }))
    ∧ (w.usable p = true →
      (body.length ≠ 2 ∨ 15 < (body.getD 0 0).toNat ∨ 1 < (body.getD 1 0).toNat →
        exec (.level p body) s = .next (s.answered w p body { result := .badarg, body := [] }))
      ∧ ∀ a b : Byte, body = [a, b] → a.toNat ≤ 15 → b.toNat ≤ 1 →
        exec (.level p body) s =
          .next (s.answered (w.setDeliv p { w.deliv p with threshold := a.toNat, accepting := decide (b = 1) }) p body
            { result := .ok, body := [] }))

/-- TAKE (R94, R95): STACKFULL with four copies in service; NONE with no head or an ineligible one; else the head leaves the queue
for the top of the stack, the running level becomes its priority, the copy is TAKEN with its count going on, an open GROUP record
closes, and the answer is the summary of the record as it then stands. -/
def Obligations.TakeMovesTheHead : Prop :=
  ∀ (s w : State) (p : HostId), s.ready p .take [] = true → w = s.returnToRun p → w.usable p = true →
    (4 ≤ (w.deliv p).stack.length →
      exec (.take p []) s = .next (s.answered w p [] { result := .stackfull, body := [] }))
    ∧ ((w.deliv p).stack.length < 4 → w.head? p = none →
      exec (.take p []) s = .next (s.answered w p [] { result := .none, body := [] }))
    ∧ ∀ i r c taken, (w.deliv p).stack.length < 4 → w.head? p = some i → w.record? i = some r → r.copy p = some c →
      (r.priority ≤ (w.deliv p).threshold ∨ r.priority ≤ (w.deliv p).runningLevel →
        exec (.take p []) s = .next (s.answered w p [] { result := .none, body := [] }))
      ∧ ((w.deliv p).threshold < r.priority → (w.deliv p).runningLevel < r.priority →
        taken =
          (w.setDeliv p
            { w.deliv p with
              queue := (w.deliv p).queue.filter (fun x => x != i)
              stack := i :: (w.deliv p).stack
              runningLevel := r.priority }).setRecord i
            { r with
              copies := vset r.copies p (some { c with state := .taken })
              particulars := match r.particulars with
                | .group members _ => .group members false
                | k => k } →
        exec (.take p []) s = .next (s.answered taken p [] { result := .ok, body := taken.summaryAt i p }))

/-- ATTN is deasserted after every TAKE answered OK, wherever the queue and the stack are in order (R95). -/
def Obligations.AttentionFallsAtTake : Prop :=
  ∀ (s w : State) (p : HostId) (i : SlotId), s.DeliveryAgrees → s.ready p .take [] = true → w = s.returnToRun p →
    w.usable p = true → (w.deliv p).stack.length < 4 → w.head? p = some i → w.aboveGate p i = true →
    Completes (exec (.take p []) s) fun t => (t.deliv p).attnLine = false

/-- PEEK (R98): STATE, BADARG, NONE with no head, or the eligible flag, the stack count and the head's summary; it changes
nothing. -/
def Obligations.PeekReportsTheHead : Prop :=
  ∀ (s w : State) (p : HostId) (body : List Byte), s.ready p .peek body = true → w = s.returnToRun p →
    (w.usable p = false → exec (.peek p body) s = .next (s.answered w p body { result := .state, body := [] }))
    ∧ (w.usable p = true → body ≠ [] →
      exec (.peek p body) s = .next (s.answered w p body { result := .badarg, body := [] }))
    ∧ (w.usable p = true → body = [] → w.head? p = none →
      exec (.peek p body) s = .next (s.answered w p body { result := .none, body := [] }))
    ∧ ∀ i r, w.usable p = true → body = [] → w.head? p = some i → w.record? i = some r →
      exec (.peek p body) s = .next (s.answered w p body
        { result := .ok
          body := (if (w.deliv p).threshold < r.priority ∧ (w.deliv p).runningLevel < r.priority then (1 : Byte) else 0)
            :: byte (w.deliv p).stack.length :: w.summaryAt i p })

/-- The occurrence summary of each kind of record, byte by byte (R96, Table 11-7). That bits 7 to 2 of byte 10 are 0 is the model's
choice (log entry 21). -/
def Obligations.SummaryListsTheRecord : Prop :=
  ∀ (s : State) (i : SlotId) (h : HostId) (r : Record) (c : Copy) (head : List Byte),
    s.record? i = some r → r.copy h = some c →
    head = [(s.slot i).generation, byte i.val, byte r.source.val, byteOfKind r.particulars.kind, byte r.priority]
      ++ bytes32 r.arrival
      ++ [byte r.repeats, byte ((if r.delayed = true then 1 else 0) + (if c.escalation = true then 2 else 0))] →
    (r.particulars = .line → s.summaryAt i h = head)
    ∧ (∀ members o, r.particulars = .group members o →
      s.summaryAt i h = head ++ byte members.length :: members.map (fun m => byte m.val))
    ∧ (r.particulars = .system none → s.summaryAt i h = head)
    ∧ (∀ k, r.particulars = .system (some k) → s.summaryAt i h = head ++ [byte k.val])
    ∧ ∀ payload poster receipt, r.particulars = .posted payload poster receipt →
      s.summaryAt i h = head ++ [byte (payload.toNat / 256), byte payload.toNat, byte poster.val]

/-! ## Acknowledgement, retirement and escalation -/

/-- The answers of ACK that end no copy (R69, Table 4-3, orders 3 to 7): UNKNOWN for an ID that is not live (R10), DENIED without
a copy, NOTTAKEN for an offered copy, LATE with the copy's state and LIVE for a terminal one, ORDER for a copy under
another. -/
def Obligations.AckEndsNothing : Prop :=
  ∀ (s w : State) (p : HostId) (generation slot : Byte), s.ready p .ack [generation, slot] = true →
    w = s.returnToRun p → w.usable p = true →
    ((∀ i : SlotId, i.val = slot.toNat → w.record? i = none ∨ (w.slot i).generation ≠ generation) →
      exec (.ack p [generation, slot]) s = .next (s.answered w p [generation, slot] { result := .unknown, body := [] }))
    ∧ ∀ (i : SlotId) (r : Record), i.val = slot.toNat → w.record? i = some r → (w.slot i).generation = generation →
      (r.copy p = none →
        exec (.ack p [generation, slot]) s = .next (s.answered w p [generation, slot] { result := .denied, body := [] }))
      ∧ ∀ c, r.copy p = some c →
        (c.state = .pending ∨ c.state = .parked →
          exec (.ack p [generation, slot]) s =
            .next (s.answered w p [generation, slot] { result := .nottaken, body := [] }))
        ∧ (c.state = .acked ∨ c.state = .expired ∨ c.state = .withdrawn →
          exec (.ack p [generation, slot]) s =
            .next (s.answered w p [generation, slot] { result := .late, body := [byteOfCopyState c.state, 0] }))
        ∧ (c.state = .taken ∨ c.state = .overdue ∨ c.state = .stale → (w.deliv p).stack.head? ≠ some i →
          exec (.ack p [generation, slot]) s =
            .next (s.answered w p [generation, slot] { result := .order, body := [] }))

/-- An ACK of the copy at the top of the stack (R70 to R72): a TAKEN copy becomes ACKED and is popped, and an ANY record is then
withdrawn; an OVERDUE copy becomes EXPIRED and escalation is attempted; a STALE copy becomes WITHDRAWN. Retirement is judged
last, and the answer carries the copy's state, then 0 for LIVE where a copy of the record is not terminal, or the record's outcome
where all are and it retires. -/
def Obligations.AckEndsTheTopCopy : Prop :=
  ∀ (s w x : State) (p : HostId) (generation slot condition : Byte) (i : SlotId) (r : Record) (c : Copy) (rest : List SlotId)
    (popped : State → State),
    s.ready p .ack [generation, slot] = true → w = s.returnToRun p → w.usable p = true → i.val = slot.toNat →
    w.record? i = some r → (w.slot i).generation = generation → r.copy p = some c → (w.deliv p).stack = i :: rest →
    popped = (fun u => u.setDeliv p { u.deliv p with stack := rest, runningLevel := u.levelOf rest }) →
    (∀ r', x.record? i = some r' →
      ((∃ h d, r'.copy h = some d ∧ d.state.terminal = false) → condition = 0)
      ∧ ((∀ h d, r'.copy h = some d → d.state.terminal = true) → condition = byteOfOutcome r'.outcome)) →
    (c.state = .taken →
      x = (if r.policy = .any then
            (popped (w.setCopy i p { c with state := .acked, deadline := none, grace := none })).withdraw i
           else popped (w.setCopy i p { c with state := .acked, deadline := none, grace := none })) →
      exec (.ack p [generation, slot]) s =
        .next (s.answered (x.judge i) p [generation, slot] { result := .ok, body := [6, condition] }))
    ∧ (c.state = .overdue →
      x = popped ((w.setCopy i p { c with state := .expired, deadline := none, grace := none }).escalate i p) →
      exec (.ack p [generation, slot]) s =
        .next (s.answered (x.judge i) p [generation, slot] { result := .late, body := [7, condition] }))
    ∧ (c.state = .stale →
      x = popped (w.setCopy i p { c with state := .withdrawn, deadline := none, grace := none }) →
      exec (.ack p [generation, slot]) s =
        .next (s.answered (x.judge i) p [generation, slot] { result := .late, body := [8, condition] }))

/-- The judgement of retirement (R11, R14 to R16, R54, R109, R133). A record with a non-terminal copy stays as it is. A record
with none retires, in the order of R15: its route's live count falls and takes the outcome, a RESERVED record gives its poster a
receipt in place of a reservation, its slot is freed with the next generation and its class's count falls; then a general record's
capacity goes to the wait-list handoff; then a line of the source whose level is active, and whose route has no live record by
then, raises one raw event, also where the level goes inactive next (the model's choice between R109 and R116, log entry 20). -/
def Obligations.FinishedRecordsRetire : Prop :=
  ∀ (s freed handed t : State) (i : SlotId) (r : Record), s.record? i = some r → t = s.judge i →
    freed =
      { s.setRoute r.source
          { s.route r.source with
            liveCount := (s.route r.source).liveCount - 1, lastOutcome := .ended r.outcome } with
        posts := vof (fun h =>
          if r.reservedBy h = true then
            { receipts := (s.postUnit h).receipts ++
                [{ generation := (s.slot i).generation, slot := i, source := r.source, outcome := r.outcome,
                   time := s.clock.timebase }]
              reservations := (s.postUnit h).reservations - 1 }
          else s.postUnit h)
        store := { s.store with
          slots := vset s.store.slots i { generation := (s.slot i).generation + 1, record := none }
          generalLive := s.store.generalLive - (if isSystem r.source then 0 else 1)
          systemLive := s.store.systemLive - (if isSystem r.source then 1 else 0) } } →
    handed = (if isSystem r.source = true then freed else freed.handoff) →
    ((∃ h c, r.copy h = some c ∧ c.state.terminal = false) → t = s)
    ∧ ((∀ h c, r.copy h = some c → c.state.terminal = true) →
      (s.waitList = [] → handed = freed)
      ∧ (∀ l, lineOfSource r.source = some l → (s.line l).config.mode.isActive (s.line l).qual.level = true →
          (s.line l).qual.firstPending = false → (handed.route r.source).liveCount = 0 →
          t = handed.admission (.line l))
      ∧ ((∀ l, lineOfSource r.source = some l →
            (s.line l).config.mode.isActive (s.line l).qual.level = false ∨ (s.line l).qual.firstPending = true
            ∨ (handed.route r.source).liveCount ≠ 0) →
          t = handed))

/-- The outcome of a record (R12, R13, Table 1-4). Under ANY it is DONE with some copy ACKED. Under ALL it is DONE with every copy
ACKED, save that the covered host's may be EXPIRED while the escalation copy is ACKED, and PARTIAL with some copy ACKED otherwise.
With no copy ACKED it is WITHDRAWN if the record was purged and EXPIRED if not. -/
def Obligations.OutcomesFollowTheTable : Prop :=
  ∀ (r : Record) (acked covered : Prop), (∃ h c, r.copy h = some c) →
    (acked ↔ ∃ h c, r.copy h = some c ∧ c.state = .acked) →
    (covered ↔ ∀ h c, r.copy h = some c → c.state = .acked
      ∨ (c.state = .expired ∧ r.covered = some h
          ∧ ∃ k d, r.copy k = some d ∧ d.escalation = true ∧ d.state = .acked)) →
    (r.policy = .any →
      (r.outcome = .done ↔ acked) ∧ r.outcome ≠ .partially
      ∧ (r.outcome = .withdrawn ↔ ¬ acked ∧ r.purged = true) ∧ (r.outcome = .expired ↔ ¬ acked ∧ r.purged = false))
    ∧ (r.policy = .all →
      (r.outcome = .done ↔ covered) ∧ (r.outcome = .partially ↔ ¬ covered ∧ acked)
      ∧ (r.outcome = .withdrawn ↔ ¬ acked ∧ r.purged = true) ∧ (r.outcome = .expired ↔ ¬ acked ∧ r.purged = false))

/-- Withdrawal of a record (R74): PENDING and PARKED copies become WITHDRAWN and leave their queues, TAKEN and OVERDUE copies become
STALE in place, all without timers; other copies, records and hosts stay. -/
def Obligations.WithdrawalEndsTheOffers : Prop :=
  ∀ (s t : State) (i : SlotId), t = s.withdraw i →
    (∀ h, t.copy? i h = (s.copy? i h).map (fun c =>
      if c.state = .pending ∨ c.state = .parked then { c with state := .withdrawn, deadline := none, grace := none }
      else if c.state = .taken ∨ c.state = .overdue then { c with state := .stale, deadline := none, grace := none }
      else c))
    ∧ (∀ h, t.deliv h =
        { s.deliv h with
          queue := if s.offeredAt h i = true then (s.deliv h).queue.filter (fun x => x != i) else (s.deliv h).queue })
    ∧ (∀ j, j ≠ i → t.slot j = s.slot j) ∧ SameRecordsButCopies s t ∧ t.routes = s.routes ∧ t.waitList = s.waitList
    ∧ t.hosts = s.hosts ∧ t.posts = s.posts ∧ t.ports = s.ports ∧ SameRest s t

/-- An escalation attempt (R77, R78). Where the record copied a fallback host, has not escalated, is neither satisfied nor purged,
and the fallback host is usable and holds no copy of it, the fallback host gets a copy with the escalation mark and no deadline,
in its queue by priority, and is woken if it is DEEP and the copy PENDING; the record is escalated and the trigger covered.
Otherwise the attempt changes nothing. -/
def Obligations.EscalationCopiesTheFallback : Prop :=
  ∀ (s t : State) (i : SlotId) (trigger : HostId) (r : Record), s.record? i = some r → t = s.escalate i trigger →
    ((∀ f, ¬ Escalates s r f) → t = s)
    ∧ ∀ f, Escalates s r f →
      t.record? i = some
        { r with
          copies := vset r.copies f
            (some { state := madeCopyState (s.host f).state r.deepWake, deadline := none, grace := none, escalation := true })
          escalated := true
          covered := some trigger }
      ∧ (∀ j, (t.slot j).generation = (s.slot j).generation ∧ (j ≠ i → t.slot j = s.slot j))
      ∧ t.store.generalLive = s.store.generalLive ∧ t.store.systemLive = s.store.systemLive
      ∧ Inserted s.priorityOf i (s.deliv f).queue (t.deliv f).queue
      ∧ t.deliv f = { s.deliv f with queue := (t.deliv f).queue } ∧ (∀ h, h ≠ f → t.deliv h = s.deliv h)
      ∧ t.host f = (s.host f).woken r.deepWake ∧ (∀ h, h ≠ f → t.host h = s.host h)
      ∧ t.routes = s.routes ∧ t.waitList = s.waitList ∧ t.posts = s.posts ∧ t.ports = s.ports ∧ SameRest s t

/-- The handoff of freed capacity (R54 to R56). An entry whose route is disabled or at its depth is dropped and the next is served.
An entry with no recipient sets NOTARGET, loses one of its pending count, and the next is served. Otherwise a delayed record is
made with the entry's repeats, and members for a group, and the handoff ends. A served entry goes to the tail unless its pending
count reached 0. -/
def Obligations.HandoffServesTheWaitList : Prop :=
  ∀ (s : State) (e : WaitEntry) (rest : List WaitEntry) (requeued : WaitEntry → List WaitEntry), s.waitList = e :: rest →
    requeued = (fun e' => if e'.pendingCount = 0 then rest else rest ++ [e']) →
    ((s.route e.source).config.enabled = false ∨ (s.route e.source).config.depth ≤ (s.route e.source).liveCount →
      s.handoff = { s with waitList := rest }.handoff)
    ∧ ((s.route e.source).config.enabled = true → (s.route e.source).liveCount < (s.route e.source).config.depth →
      (NoRecipient s (s.route e.source).config →
        s.handoff =
          { s.setRoute e.source { s.route e.source with lastOutcome := .notarget } with
            waitList := requeued { e with pendingCount := e.pendingCount - 1 } }.handoff)
      ∧ ∀ i hosts fallbackOnly, Recipients s (s.route e.source).config hosts fallbackOnly → LowestFree s i →
        isSystem e.source = false → s.store.generalLive < 44 →
        ∃ made,
          Created s made i
            (madeRecord s e.source (if isGroup e.source then .group e.members true else .line) true e.repeats hosts
              fallbackOnly) hosts
          ∧ s.handoff =
              { made with
                waitList := requeued { e with pendingCount := e.pendingCount - 1, members := [], repeats := 0 } })

/-! ## Reports -/

/-- DETAIL (R17 to R19, Table 11-7): STATE, BADARG, UNKNOWN, or the RECORD part or the COPIES part byte by byte; it changes
nothing. Two bytes are the model's deduction: a count that stands at 0 is reported as 0 (log entry 10), and the entry of an absent
copy has the escalation mark 0 (log entry 16). That the bits which Table 11-7 does not name are 0 is the model's choice (log entry
21). -/
def Obligations.DetailReportsTheRecord : Prop :=
  ∀ (s w : State) (p : HostId) (body : List Byte), s.ready p .detail body = true → w = s.returnToRun p →
    (w.usable p = false → exec (.detail p body) s = .next (s.answered w p body { result := .state, body := [] }))
    ∧ (w.usable p = true → body.length ≠ 3 ∨ 1 < (body.getD 2 0).toNat →
      exec (.detail p body) s = .next (s.answered w p body { result := .badarg, body := [] }))
    ∧ ∀ generation slot part : Byte, w.usable p = true → body = [generation, slot, part] → part.toNat ≤ 1 →
      ((∀ i : SlotId, i.val = slot.toNat → w.record? i = none ∨ (w.slot i).generation ≠ generation) →
        exec (.detail p body) s = .next (s.answered w p body { result := .unknown, body := [] }))
      ∧ ∀ (i : SlotId) (r : Record) (tail : List Byte), i.val = slot.toNat → w.record? i = some r →
        (w.slot i).generation = generation →
        tail = (match r.particulars with
          | .line => []
          | .group members _ => byte members.length :: members.map (fun m => byte m.val)
          | .system none => []
          | .system (some h) => [byte h.val]
          | .posted payload poster receipt =>
            [byte (payload.toNat / 256), byte payload.toNat, byte poster.val, byteOfReceiptState receipt]) →
        (part = 0 →
          exec (.detail p body) s = .next (s.answered w p body
            { result := .ok
              body := [generation, slot, byte r.source.val, byteOfKind r.particulars.kind,
                  byte (r.priority + (if r.policy = .any then 16 else 0)), byte (r.deadline / 256), byte r.deadline,
                  byteOfOptHost r.fallback,
                  byte ((if r.deepWake = true then 1 else 0) + (if r.delayed = true then 2 else 0)
                    + (if r.escalated = true then 4 else 0) + (if r.purged = true then 8 else 0)
                    + (if r.isOpen = true then 16 else 0)),
                  byteOfOptHost r.covered]
                ++ bytes32 r.arrival ++ byte r.repeats :: tail }))
        ∧ (part = 1 →
          exec (.detail p body) s = .next (s.answered w p body
            { result := .ok
              body := generation :: slot :: ([0, 1, 2, 3] : List HostId).flatMap (fun h =>
                match r.copy h with
                | none => [0, 0xFF, 0xFF, 0xFF, 0xFF]
                | some c =>
                  [byteOfCopyState c.state + (if c.escalation = true then 0x80 else 0)]
                    ++ (match c.state with
                      | .overdue => [0, 0]
                      | .pending => bytesRemaining c.deadline
                      | .parked => bytesRemaining c.deadline
                      | .taken => bytesRemaining c.deadline
                      | _ => [0xFF, 0xFF])
                    ++ (match c.state with
                      | .overdue => bytesRemaining c.grace
                      | _ => [0xFF, 0xFF])) }))

/-- ROUTE_READ and LINE_READ (R32, R112, Table 11-7): STATE, BADARG, or the entry byte by byte; they change nothing. -/
def Obligations.ReadsReportTheEntry : Prop :=
  ∀ (s w : State) (p : HostId) (body : List Byte), w = s.returnToRun p →
    (s.ready p .routeRead body = true →
      (w.usable p = false → exec (.routeRead p body) s = .next (s.answered w p body { result := .state, body := [] }))
      ∧ (w.usable p = true → body.length ≠ 1 ∨ 63 < (body.getD 0 0).toNat →
        exec (.routeRead p body) s = .next (s.answered w p body { result := .badarg, body := [] }))
      ∧ ∀ n : SourceId, w.usable p = true → body = [byte n.val] →
        exec (.routeRead p body) s = .next (s.answered w p body
          { result := .ok
            body := routeWriteBody n (w.route n).config
              ++ [byte (w.route n).liveCount, byteOfLastOutcome (w.route n).lastOutcome,
                byteOfGroup (match lineOfSource n with
                  | none => none
                  | some l => (w.line l).config.group)] }))
    ∧ (s.ready p .lineRead body = true →
      (w.usable p = false → exec (.lineRead p body) s = .next (s.answered w p body { result := .state, body := [] }))
      ∧ (w.usable p = true → body.length ≠ 1 ∨ 23 < (body.getD 0 0).toNat →
        exec (.lineRead p body) s = .next (s.answered w p body { result := .badarg, body := [] }))
      ∧ ∀ n : LineId, w.usable p = true → body = [byte n.val] →
        exec (.lineRead p body) s = .next (s.answered w p body
          { result := .ok
            body := lineWriteBody n (w.line n).config
              ++ [byteOfBool (w.line n).qual.level, byteOfBool (w.line n).qual.lastSample,
                byte (w.line n).qual.disagreement, byteOfBool (w.line n).qual.firstPending] }))

/-! ## Posting -/

/-- An accepted POST (R130): the lowest FREE slot gets a POSTED record with the payload and the poster, copies for the usable
targets or for the usable fallback host, and with a receipt requested the receipt state RESERVED and one reservation more. The
answer is its ID. -/
def Obligations.PostMakesARecord : Prop :=
  ∀ (s w : State) (p : HostId) (n : SourceId) (hi lo request : Byte) (i : SlotId) (hosts : List HostId)
    (fallbackOnly : Bool),
    s.ready p .post [byte n.val, hi, lo, request] = true → w = s.returnToRun p → w.usable p = true → 32 ≤ n.val →
    request.toNat ≤ 1 → (w.route n).config.enabled = true → hostIn (w.route n).config.posters p = true →
    (w.route n).liveCount < (w.route n).config.depth →
    (request = 1 → (w.postUnit p).receipts.length + (w.postUnit p).reservations < 8) →
    Recipients w (w.route n).config hosts fallbackOnly → w.store.generalLive < 44 → LowestFree w i →
    ∃ made,
      Created w made i
        (madeRecord w n (.posted (hi ++ lo) p (if request = 1 then .reserved else .none)) false 0 hosts fallbackOnly) hosts
      ∧ exec (.post p [byte n.val, hi, lo, request]) s =
          .next (s.answered
            (if request = 1 then
              made.setPostUnit p { w.postUnit p with reservations := (w.postUnit p).reservations + 1 }
             else made)
            p [byte n.val, hi, lo, request] { result := .ok, body := [(w.slot i).generation, byte i.val] })

/-- The refusals of POST in the order of Table 8-3 (R129, R131): none makes a record or a reservation, and only NOTARGET changes
anything, the route's last outcome. -/
def Obligations.PostIsRefusedInOrder : Prop :=
  ∀ (s w : State) (p : HostId) (source hi lo request : Byte), s.ready p .post [source, hi, lo, request] = true →
    w = s.returnToRun p → w.usable p = true →
    (source.toNat < 32 ∨ 63 < source.toNat ∨ 1 < request.toNat →
      exec (.post p [source, hi, lo, request]) s =
        .next (s.answered w p [source, hi, lo, request] { result := .badarg, body := [] }))
    ∧ ∀ n : SourceId, n.val = source.toNat → 32 ≤ n.val → request.toNat ≤ 1 →
      ((w.route n).config.enabled = false →
        exec (.post p [source, hi, lo, request]) s =
          .next (s.answered w p [source, hi, lo, request] { result := .disabled, body := [] }))
      ∧ ((w.route n).config.enabled = true →
        (hostIn (w.route n).config.posters p = false →
          exec (.post p [source, hi, lo, request]) s =
            .next (s.answered w p [source, hi, lo, request] { result := .denied, body := [] }))
        ∧ (hostIn (w.route n).config.posters p = true →
          ((w.route n).config.depth ≤ (w.route n).liveCount →
            exec (.post p [source, hi, lo, request]) s =
              .next (s.answered w p [source, hi, lo, request] { result := .full, body := [] }))
          ∧ ((w.route n).liveCount < (w.route n).config.depth →
            (request = 1 → 8 ≤ (w.postUnit p).receipts.length + (w.postUnit p).reservations →
              exec (.post p [source, hi, lo, request]) s =
                .next (s.answered w p [source, hi, lo, request] { result := .rcptfull, body := [] }))
            ∧ ((request = 1 → (w.postUnit p).receipts.length + (w.postUnit p).reservations < 8) →
              (NoRecipient w (w.route n).config →
                exec (.post p [source, hi, lo, request]) s =
                  .next (s.answered (w.setRoute n { w.route n with lastOutcome := .notarget }) p
                    [source, hi, lo, request] { result := .notarget, body := [] }))
              ∧ ∀ hosts fallbackOnly, Recipients w (w.route n).config hosts fallbackOnly →
                44 ≤ w.store.generalLive →
                exec (.post p [source, hi, lo, request]) s =
                  .next (s.answered w p [source, hi, lo, request] { result := .noroom, body := [] })))))

/-- RECEIPT (R134): STATE, BADARG, NONE on an empty list, or the oldest receipt, which leaves the list. -/
def Obligations.ReceiptReturnsTheOldest : Prop :=
  ∀ (s w : State) (p : HostId) (body : List Byte), s.ready p .receipt body = true → w = s.returnToRun p →
    (w.usable p = false → exec (.receipt p body) s = .next (s.answered w p body { result := .state, body := [] }))
    ∧ (w.usable p = true → body ≠ [] →
      exec (.receipt p body) s = .next (s.answered w p body { result := .badarg, body := [] }))
    ∧ (w.usable p = true → body = [] → (w.postUnit p).receipts = [] →
      exec (.receipt p body) s = .next (s.answered w p body { result := .none, body := [] }))
    ∧ ∀ x later, w.usable p = true → body = [] → (w.postUnit p).receipts = x :: later →
      exec (.receipt p body) s = .next (s.answered (w.setPostUnit p { w.postUnit p with receipts := later }) p body
        { result := .ok
          body := [x.generation, byte x.slot.val, byte x.source.val, byteOfOutcome x.outcome] ++ bytes32 x.time })

/-! ## Routes and lines -/

/-- An accepted ROUTE_WRITE (R34 to R36): every writable field takes its new value and the live count and last outcome stay; a
disable removes the source's wait entry; an enable of a level line's route with the level active and no live record raises one
raw event under the new fields; nothing else changes. -/
def Obligations.RouteWriteReplacesEveryField : Prop :=
  ∀ (s w written : State) (p : HostId) (n : SourceId) (c : RouteConfig),
    s.ready p .routeWrite (routeWriteBody n c) = true → w = s.returnToRun p → w.usable p = true → c.inRange →
    ((w.route n).config.owner = p ∨ w.administrator = p) →
    (c.owner ≠ (w.route n).config.owner → w.administrator = p) →
    (isSystem n = true → w.administrator = p ∧ c.depth = 1 ∧ c.owner = w.administrator) →
    (n.val < 32 → c.posters = 0) →
    (∀ l, lineOfSource n = some l → (w.line l).config.mode.isLevel = true → c.depth = 1) →
    written =
      { w.setRoute n { w.route n with config := c } with
        waitList :=
          if (w.route n).config.enabled = true ∧ c.enabled = false then w.waitList.filter (fun e => e.source != n)
          else w.waitList } →
    ((∃ l, lineOfSource n = some l ∧ (w.route n).config.enabled = false ∧ c.enabled = true
        ∧ (w.line l).config.mode.isActive (w.line l).qual.level = true ∧ (w.line l).qual.firstPending = false
        ∧ (w.route n).liveCount = 0
        ∧ exec (.routeWrite p (routeWriteBody n c)) s =
            .next (s.answered (written.admission (.line l)) p (routeWriteBody n c) { result := .ok, body := [] }))
      ∨ ((∀ l, lineOfSource n = some l → (w.route n).config.enabled = true ∨ c.enabled = false
            ∨ (w.line l).config.mode.isActive (w.line l).qual.level = false ∨ (w.line l).qual.firstPending = true
            ∨ (w.route n).liveCount ≠ 0)
        ∧ exec (.routeWrite p (routeWriteBody n c)) s =
            .next (s.answered written p (routeWriteBody n c) { result := .ok, body := [] })))

/-- The refusals of ROUTE_WRITE in the order of Table 2-2 (R33), orders 2 to 10: the route is left unchanged. -/
def Obligations.RouteWriteIsRefusedInOrder : Prop :=
  ∀ (s w : State) (p : HostId)
    (source enabled owner targets priority policy depth dHi dLo fallback deepWake posters : Byte) (body : List Byte)
    (refusedWith : ResultCode → Prop),
    body = [source, enabled, owner, targets, priority, policy, depth, dHi, dLo, fallback, deepWake, posters] →
    s.ready p .routeWrite body = true → w = s.returnToRun p → w.usable p = true →
    refusedWith = (fun code => exec (.routeWrite p body) s = .next (s.answered w p body { result := code, body := [] })) →
    (63 < source.toNat → refusedWith .badarg)
    ∧ ∀ n : SourceId, n.val = source.toNat →
      (((w.route n).config.owner ≠ p ∧ w.administrator ≠ p)
          ∨ (owner.toNat ≠ (w.route n).config.owner.val ∧ w.administrator ≠ p)
          ∨ (isSystem n = true ∧ w.administrator ≠ p) → refusedWith .denied)
      ∧ (w.administrator = p ∨ ((w.route n).config.owner = p ∧ owner.toNat = p.val ∧ isSystem n = false) →
        (priority = 0 ∨ 15 < priority.toNat ∨ depth = 0 ∨ 4 < depth.toNat ∨ 1000 < dHi.toNat * 256 + dLo.toNat
            ∨ 3 < owner.toNat ∨ (3 < fallback.toNat ∧ fallback ≠ 0xFF) ∨ 15 < targets.toNat ∨ 15 < posters.toNat
            ∨ 1 < enabled.toNat ∨ 1 < policy.toNat ∨ 1 < deepWake.toNat → refusedWith .badarg)
        ∧ ∀ c : RouteConfig, body = routeWriteBody n c → c.inRange →
          (c.posters ≠ 0 ∧ n.val < 32 → refusedWith .badarg)
          ∧ (isSystem n = true → c.depth ≠ 1 ∨ c.owner ≠ w.administrator → refusedWith .badarg)
          ∧ ∀ l, lineOfSource n = some l → c.posters = 0 → (w.line l).config.mode.isLevel = true → 1 < c.depth →
            refusedWith .conflict)

/-- PURGE (R39, R40): BADARG, DENIED, or the number of the source's live records. One that a host holds in service stays live,
purged, with its PENDING and PARKED copies WITHDRAWN and its TAKEN and OVERDUE ones STALE (R75); one that no host holds in service
has been freed once by the end; a record of another source keeps its slot and its copies; the source no longer waits, unless it is
that of a level line whose active level raises it anew at the retirement of a record (R41); and no route, line or clock setting
changes. -/
def Obligations.PurgeWithdrawsTheSource : Prop :=
  ∀ (s w : State) (p : HostId) (b : Byte), s.ready p .purge [b] = true → w = s.returnToRun p → w.usable p = true →
    (63 < b.toNat → exec (.purge p [b]) s = .next (s.answered w p [b] { result := .badarg, body := [] }))
    ∧ ∀ n : SourceId, n.val = b.toNat →
      ((w.route n).config.owner ≠ p → w.administrator ≠ p →
        exec (.purge p [b]) s = .next (s.answered w p [b] { result := .denied, body := [] }))
      ∧ ((w.route n).config.owner = p ∨ w.administrator = p →
        Completes (exec (.purge p [b]) s) fun t =>
          t.answerOn p = some { result := .ok, body := [byte (w.countRecords (fun r => r.source == n))] }
          ∧ (∀ i r, w.record? i = some r → r.source = n →
              ((∃ h c, r.copy h = some c ∧ (c.state = .taken ∨ c.state = .overdue ∨ c.state = .stale)) →
                (t.slot i).generation = (w.slot i).generation
                ∧ ∃ r', t.record? i = some r' ∧ r'.purged = true
                  ∧ ∀ h, r'.copy h = (r.copy h).map (fun c =>
                      if c.state = .pending ∨ c.state = .parked then
                        { c with state := .withdrawn, deadline := none, grace := none }
                      else if c.state = .taken ∨ c.state = .overdue then
                        { c with state := .stale, deadline := none, grace := none }
                      else c))
              ∧ ((∀ h c, r.copy h = some c → c.state ≠ .taken ∧ c.state ≠ .overdue ∧ c.state ≠ .stale) →
                (t.slot i).generation = (w.slot i).generation + 1))
          ∧ (∀ i r, w.record? i = some r → r.source ≠ n → (t.slot i).generation = (w.slot i).generation
              ∧ ∃ r', t.record? i = some r' ∧ r'.source = r.source ∧ r'.purged = r.purged ∧ r'.copies = r.copies)
          ∧ ((∀ l, lineOfSource n = some l → (w.line l).config.mode.isActive (w.line l).qual.level = false
                ∨ (w.line l).qual.firstPending = true ∨ ∀ i r, w.record? i = some r → r.source ≠ n) →
              ∀ e ∈ t.waitList, e.source ≠ n)
          ∧ SameOtherPorts p w t ∧ SameRest w t)

/-- An accepted LINE_WRITE (R114, R121): the configuration is replaced; mode OFF clears the qualification state; a change of mode,
period or Q starts the qualification afresh with the first sample pending; a change of the group alone leaves it; no raw event is
raised and nothing else changes. -/
def Obligations.LineWriteReplacesTheLine : Prop :=
  ∀ (s w : State) (p : HostId) (n : LineId) (c : LineConfig) (owns : Option GroupId → Prop),
    s.ready p .lineWrite (lineWriteBody n c) = true → w = s.returnToRun p → w.usable p = true → c.inRange →
    owns = (fun g => ∀ k, g = some k → (w.route (groupSource k)).config.owner = p) →
    ((w.route (lineSource n)).config.owner = p ∨ w.administrator = p) →
    (c.group ≠ (w.line n).config.group → w.administrator = p ∨ (owns (w.line n).config.group ∧ owns c.group)) →
    (c.mode.isLevel = true → c.group = none ∧ (w.route (lineSource n)).config.depth ≤ 1) →
    (∀ g, c.group = some g → c.group ≠ (w.line n).config.group → (w.members g).length < 8) →
    exec (.lineWrite p (lineWriteBody n c)) s =
      .next (s.answered
        (w.setLine n
          { config := c
            qual :=
              if c.mode = .off then { lastSample := false, level := false, disagreement := 0, firstPending := false }
              else if c.mode ≠ (w.line n).config.mode ∨ c.period ≠ (w.line n).config.period ∨ c.q ≠ (w.line n).config.q then
                { lastSample := (w.line n).qual.lastSample, level := (w.line n).qual.level, disagreement := 0
                  firstPending := true }
              else (w.line n).qual })
        p (lineWriteBody n c) { result := .ok, body := [] })

/-- The refusals of LINE_WRITE in the order of Table 6-3 (R113, R120), orders 2 to 8: the line is left unchanged. -/
def Obligations.LineWriteIsRefusedInOrder : Prop :=
  ∀ (s w : State) (p : HostId) (line mode period q group : Byte) (body : List Byte) (refusedWith : ResultCode → Prop)
    (owns : Option GroupId → Prop),
    body = [line, mode, period, q, group] → s.ready p .lineWrite body = true → w = s.returnToRun p → w.usable p = true →
    refusedWith = (fun code => exec (.lineWrite p body) s = .next (s.answered w p body { result := code, body := [] })) →
    owns = (fun g => ∀ k, g = some k → (w.route (groupSource k)).config.owner = p) →
    (23 < line.toNat → refusedWith .badarg)
    ∧ ∀ n : LineId, n.val = line.toNat →
      ((w.route (lineSource n)).config.owner ≠ p ∧ w.administrator ≠ p → refusedWith .denied)
      ∧ ((w.route (lineSource n)).config.owner = p ∨ w.administrator = p →
        (3 < group.toNat → group ≠ 0xFF → refusedWith .badarg)
        ∧ ∀ g : Option GroupId, group = byteOfGroup g →
          (g ≠ (w.line n).config.group → w.administrator ≠ p → ¬ (owns (w.line n).config.group ∧ owns g) →
            refusedWith .denied)
          ∧ ((g ≠ (w.line n).config.group → w.administrator = p ∨ (owns (w.line n).config.group ∧ owns g)) →
            (5 < mode.toNat ∨ 2 < period.toNat ∨ q = 0 ∨ 15 < q.toNat → refusedWith .badarg)
            ∧ ∀ c : LineConfig, body = lineWriteBody n c → c.inRange →
              (c.mode.isLevel = true → c.group ≠ none ∨ 1 < (w.route (lineSource n)).config.depth → refusedWith .conflict)
              ∧ (c.mode.isLevel = false → ∀ k, c.group = some k → c.group ≠ (w.line n).config.group →
                8 ≤ (w.members k).length → refusedWith .full)))

/-! ## The administrator's commands -/

/-- An accepted FLUSHALL where the pool counts agree with the records and the routes are legal (R21, R22, R110). Every live record
is purged with its copies withdrawn and retires, in ascending slot order: the answer counts them, their slots advance their
generations, their routes take the outcomes, and the RESERVED ones give receipts. Nothing waits, and no copy is in service. Then
each line whose route is enabled and whose level is active, in ascending line number, gets a record in the lowest FREE slot, or
sets NOTARGET where it finds no recipient. Nothing else is live. The queues hold the copies of these records, a DEEP host that one
of them wakes is WAKING, and host limits, threshold, accepting flag, routes' fields, lines and clock stay. That copies in service
end within the event, where R99 and R84 read as if FLUSHALL left them STALE, is the model's choice (log entry 22). -/
def Obligations.FlushallEmptiesTheStore : Prop :=
  ∀ (s w : State) (p : HostId) (raised : List LineId), s.CountsAgree → s.RoutesLegal → s.ready p .flushall [] = true →
    w = s.returnToRun p → w.usable p = true → w.administrator = p →
    raised.Pairwise (fun l m => l < m) →
    (∀ l, l ∈ raised ↔ Rearmed w l ∧ ¬ NoRecipient w (w.route (lineSource l)).config) →
    Completes (exec (.flushall p []) s) fun t =>
      t.answerOn p = some { result := .ok, body := [byte (w.countRecords (fun _ => true))] }
      ∧ (∀ i, (t.slot i).generation =
          (if (w.record? i).isSome = true then (w.slot i).generation + 1 else (w.slot i).generation))
      ∧ t.waitList = []
      ∧ (∀ i, raised.length ≤ i.val → t.record? i = none)
      ∧ (∀ (i : SlotId) l hosts fallbackOnly, raised[i.val]? = some l →
          Recipients w (w.route (lineSource l)).config hosts fallbackOnly →
          t.record? i = some
            { madeRecord w (lineSource l) .line false 0 hosts fallbackOnly with birth := w.store.births + i.val })
      ∧ t.store.generalLive = raised.length ∧ t.store.systemLive = 0
      ∧ (∀ n, (t.route n).liveCount = (if n ∈ raised.map lineSource then 1 else 0))
      ∧ (∀ l, Rearmed w l → NoRecipient w (w.route (lineSource l)).config →
          (t.route (lineSource l)).lastOutcome = .notarget)
      ∧ (∀ n, (∀ l, n = lineSource l → Rearmed w l → l ∈ raised) →
          (∀ i r, w.record? i = some r → r.source = n →
              (∀ j r', i < j → w.record? j = some r' → r'.source ≠ n) →
              (t.route n).lastOutcome = .ended r.flushed.outcome)
          ∧ ((∀ i r, w.record? i = some r → r.source ≠ n) → (t.route n).lastOutcome = (w.route n).lastOutcome))
      ∧ (∀ h, t.postUnit h =
          { receipts := (w.postUnit h).receipts ++ allSlots.filterMap (fun i =>
              match w.record? i with
              | none => none
              | some r =>
                if r.reservedBy h = true then
                  some { generation := (w.slot i).generation, slot := i, source := r.source, outcome := r.flushed.outcome
                         time := w.clock.timebase }
                else none)
            reservations := (w.postUnit h).reservations - w.countRecords (Record.reservedBy h) })
      ∧ (∀ h, (t.deliv h).same
          { w.deliv h with queue := (t.deliv h).queue, stack := [], runningLevel := 0 })
      ∧ (∀ h i, i ∈ (t.deliv h).queue ↔ t.copy? i h ≠ none)
      ∧ (∀ h, (t.deliv h).queue.Pairwise (fun i j =>
          t.priorityOf j < t.priorityOf i ∨ (t.priorityOf j = t.priorityOf i ∧ i < j)))
      ∧ (∀ h, (t.host h).same
          (if (w.host h).state = .deep ∧ ∃ i, t.isPending h i = true then
            { w.host h with state := .waking, wakeTimer := some (w.host h).wakeLimit }
           else w.host h))
      ∧ SameOtherPorts p w t ∧ SameRest w t

/-- RESTORE (R163): STATE, DENIED, BADARG, STATE outside BACKUP, NOTREADY before the measure is stable, or the clock state REF with
every other count kept. -/
def Obligations.RestoreReturnsToRef : Prop :=
  ∀ (s w : State) (p : HostId) (body : List Byte), s.ready p .restore body = true → w = s.returnToRun p →
    exec (.restore p body) s =
      if w.usable p = false then .next (s.answered w p body { result := .state, body := [] })
      else if w.administrator ≠ p then .next (s.answered w p body { result := .denied, body := [] })
      else if body.length ≠ 0 then .next (s.answered w p body { result := .badarg, body := [] })
      else if w.clock.state = .start ∨ w.clock.state = .ref then
        .next (s.answered w p body { result := .state, body := [] })
      else if w.clock.stability ≠ 4000 then .next (s.answered w p body { result := .notready, body := [] })
      else .next (s.answered { w with clock := { w.clock with state := .ref } } p body { result := .ok, body := [] })

/-! ## Admission -/

/-- The raw events that make no record (R44, R47, R48). A disabled route discards the event without trace. At the route's depth it
is a repeat in the source's newest live record, saturating at 255. With no usable target and no usable fallback host the last
outcome becomes NOTARGET. -/
def Obligations.AdmissionWithoutARecord : Prop :=
  ∀ (s : State) (ev : RawEvent) (n : SourceId), n = ev.source →
    ((s.route n).config.enabled = false → s.admission ev = s)
    ∧ ((s.route n).config.enabled = true → (∀ e ∈ s.waitList, e.source ≠ n) →
      (isGroup n = true → ∀ i r, s.record? i = some r → r.source = n → r.isOpen = false) →
      (∀ i r, (s.route n).config.depth ≤ (s.route n).liveCount → s.record? i = some r → r.source = n →
        (∀ j r', j ≠ i → s.record? j = some r' → r'.source = n → r'.birth < r.birth) →
        s.admission ev = s.setRecord i { r with repeats := if r.repeats < 255 then r.repeats + 1 else r.repeats })
      ∧ ((s.route n).liveCount < (s.route n).config.depth → NoRecipient s (s.route n).config →
        s.admission ev = s.setRoute n { s.route n with lastOutcome := .notarget }))

/-- The raw events counted into what already stands (R45, R46). A member edge merges into the group's open record or, failing one,
into its wait entry: the line is appended if it is unlisted and the list holds fewer than 8, and is a repeat otherwise. A line's
event raises its wait entry's pending count while that is below depth minus live count, and is a repeat otherwise. -/
def Obligations.AdmissionIntoWhatStands : Prop :=
  ∀ (s : State) (merge : LineId → List LineId → Nat → List LineId × Nat),
    merge = (fun m members repeats =>
      if m ∉ members ∧ members.length < 8 then (members ++ [m], repeats)
      else (members, if repeats < 255 then repeats + 1 else repeats)) →
    (∀ g m i r members, (s.route (groupSource g)).config.enabled = true → s.record? i = some r →
      r.source = groupSource g → r.particulars = .group members true →
      (∀ j r', s.record? j = some r' → r'.source = groupSource g → r'.isOpen = true → j = i) →
      s.admission (.group g m) = s.setRecord i
        { r with
          particulars := .group (merge m members r.repeats).1 true, repeats := (merge m members r.repeats).2 })
    ∧ (∀ g m, (s.route (groupSource g)).config.enabled = true → (∃ e ∈ s.waitList, e.source = groupSource g) →
      (∀ i r, s.record? i = some r → r.source = groupSource g → r.isOpen = false) →
      s.admission (.group g m) =
        { s with
          waitList := s.waitList.map (fun e =>
            if e.source = groupSource g then
              { e with members := (merge m e.members e.repeats).1, repeats := (merge m e.members e.repeats).2 }
            else e) })
    ∧ ∀ l, (s.route (lineSource l)).config.enabled = true → (∃ e ∈ s.waitList, e.source = lineSource l) →
      s.admission (.line l) =
        { s with
          waitList := s.waitList.map (fun e =>
            if e.source ≠ lineSource l then e
            else if (s.route (lineSource l)).liveCount + e.pendingCount < (s.route (lineSource l)).config.depth then
              { e with pendingCount := e.pendingCount + 1 }
            else { e with repeats := if e.repeats < 255 then e.repeats + 1 else e.repeats }) }

/-- A raw event that passes steps 1 to 5 (R49 to R52): with a record to be had, a record is made in the lowest FREE slot; a general
source without one joins the tail of the wait list with pending count 1, and POOLWAIT follows where the list was
empty. -/
def Obligations.AdmissionMakesARecordOrWaits : Prop :=
  ∀ (s : State) (ev : RawEvent) (n : SourceId) (hosts : List HostId) (fallbackOnly : Bool), n = ev.source →
    (s.route n).config.enabled = true → (∀ e ∈ s.waitList, e.source ≠ n) →
    (isGroup n = true → ∀ i r, s.record? i = some r → r.source = n → r.isOpen = false) →
    (s.route n).liveCount < (s.route n).config.depth → Recipients s (s.route n).config hosts fallbackOnly →
    (∀ i, (isSystem n = false → s.store.generalLive < 44) →
      (isSystem n = true → ∀ j r, s.record? j = some r → r.source ≠ n) → LowestFree s i →
      Created s (s.admission ev) i
        (madeRecord s n
          (match ev with
            | .line _ => .line
            | .group _ m => .group [m] true
            | .reflost => .system none
            | .hostlost h => .system (some h)
            | .poolwait => .system none
            | .hostback h => .system (some h))
          false 0 hosts fallbackOnly) hosts)
    ∧ ∀ waiting, isSystem n = false → 44 ≤ s.store.generalLive →
      waiting =
        { s with
          waitList := s.waitList ++
            [{ source := n, pendingCount := 1
               members := match ev with
                 | .group _ m => [m]
                 | _ => []
               repeats := 0 }] } →
      s.admission ev = if s.waitList = [] then waiting.admission .poolwait else waiting

/-! ## Ticks, expiries and clocks -/

/-- The millisecond tick (R158, R159): the timebase rises by one, wrapping to 0; every running deadline, grace and wake count
falls by one, and every other count is held; nothing else changes but the millisecond divider. Three points are the model's
choice: a count at 0 stays at 0 until the row of its expiry (log entry 12), the divider starts over at this row (log entry 5), and
no line is sampled at it, the samples of this tick being the row SAMPLE_TICK of period 1 ms (log entry 19). -/
def Obligations.MillisecondTickCountsDown : Prop :=
  ∀ s : State, Completes (exec .millisecondTick s) fun t =>
    t.clock = { s.clock with timebase := s.clock.timebase + 1, dividerMs1 := 0 }
    ∧ (∀ i h, t.copy? i h = (s.copy? i h).map (fun c =>
        if c.state = .pending ∨ c.state = .taken then { c with deadline := c.deadline.map (fun k => k - 1) }
        else if c.state = .overdue then { c with grace := c.grace.map (fun k => k - 1) }
        else c))
    ∧ SameRecordsButCopies s t
    ∧ (∀ h, (t.host h).same
        { s.host h with
          wakeTimer :=
            if (s.host h).state = .waking then (s.host h).wakeTimer.map (fun k => k - 1) else (s.host h).wakeTimer })
    ∧ SameDelivery s t ∧ t.routes = s.routes ∧ t.waitList = s.waitList ∧ t.posts = s.posts ∧ t.lines = s.lines
    ∧ t.ports = s.ports ∧ t.administrator = s.administrator

/-- A sample tick (R105, R106, R115), whatever the order of its lines. Each line of the tick's period that is not OFF takes the
sample: as its first sample it sets the qualified level; agreeing, it clears the disagreement count; disagreeing, it raises the
count, and the Q-th in a row changes the qualified level. Every other line, and every configuration, stays. That the row carries
the order of the lines is the model's choice (log entry 3), and so is that the timebase and the counts of milliseconds stay at a
tick of period 1 ms, the row MILLISECOND_TICK being the other part of that tick (log entry 19). -/
def Obligations.SampleTickQualifiesItsLines : Prop :=
  ∀ (s : State) (period : Period) (levels : BitVec 24) (order : List LineId),
    Completes (exec (.sampleTick period levels order) s) fun t =>
      (∀ n (b : Bool), b = levels.getLsbD n.val →
        t.line n =
          if (s.line n).config.mode = .off ∨ (s.line n).config.period ≠ period then s.line n
          else
            { config := (s.line n).config
              qual :=
                if (s.line n).qual.firstPending = true then
                  { lastSample := b, level := b, disagreement := 0, firstPending := false }
                else if b = (s.line n).qual.level then
                  { lastSample := b, level := b, disagreement := 0, firstPending := false }
                else if (s.line n).qual.disagreement + 1 < (s.line n).config.q then
                  { lastSample := b, level := (s.line n).qual.level
                    disagreement := (s.line n).qual.disagreement + 1, firstPending := false }
                else { lastSample := b, level := b, disagreement := 0, firstPending := false } })
      ∧ (∀ n, (t.route n).config = (s.route n).config) ∧ t.ports = s.ports ∧ t.posts = s.posts
      ∧ t.administrator = s.administrator ∧ t.clock.state = s.clock.state ∧ t.clock.timebase = s.clock.timebase

/-- The raw events of a sample tick (R107, R108, R115, R122). The lines of the tick are taken one after another: first those that
the row names, in its order, then the others in ascending order. Each is sampled from its own pin, on the state that the line
before it left. A qualified change that the edge mode names is raised for the line's group with its number, or else for the line;
a qualified change of a level line to its active level, or its first sample at that level, is raised where the route has no live
record; any other sample raises nothing. The model's choices: the order is the row's (log entry 3), the divider of the stream
starts over at the row (log entry 5), and a tick of period 1 ms leaves the timebase, the counts and the millisecond divider to the
row MILLISECOND_TICK (log entry 19). -/
def Obligations.SampleTickRaisesItsEvent : Prop :=
  ∀ (s : State) (period : Period) (levels : BitVec 24) (order lines : List LineId),
    lines = (order.dedup ++ allLines.filter (fun n => decide (n ∉ order))).filter (fun n =>
      decide ((s.line n).config.mode ≠ .off ∧ (s.line n).config.period = period)) →
    ∃ before : Nat → State,
      before 0 =
        { s with
          clock := { s.clock with
            dividerUs10 := if period = .us10 then 0 else s.clock.dividerUs10
            dividerUs100 := if period = .us100 then 0 else s.clock.dividerUs100 } }
      ∧ (∀ (k : Nat) (n : LineId) (x u : State) (b qualified : Bool) (mode : Mode), lines[k]? = some n → x = before k →
          b = levels.getLsbD n.val → mode = (s.line n).config.mode →
          (qualified = true ↔ (s.line n).qual.firstPending = false ∧ b ≠ (s.line n).qual.level
            ∧ (s.line n).config.q ≤ (s.line n).qual.disagreement + 1) →
          u = x.setLine n ((s.line n).sampled b) →
          before (k + 1) =
            (if qualified = true ∧ ((mode = .rise ∧ b = true) ∨ (mode = .fall ∧ b = false) ∨ mode = .both) then
              match (s.line n).config.group with
              | none => u.admission (.line n)
              | some g => u.admission (.group g n)
            else if (qualified = true ∨ (s.line n).qual.firstPending = true)
                ∧ ((mode = .high ∧ b = true) ∨ (mode = .low ∧ b = false))
                ∧ (x.route (lineSource n)).liveCount = 0 then u.admission (.line n)
            else u))
      ∧ exec (.sampleTick period levels order) s = .next (before lines.length).driveLines

/-- A deadline expiry (R64 to R66): a PENDING copy whose count reached 0 becomes EXPIRED and leaves its queue, escalation is
attempted and retirement judged; a TAKEN one becomes OVERDUE in place with the grace count at its host's limit, and escalation is
attempted. That a row whose copy has no running count at 0 is no event, and changes nothing, is the model's choice (log entry 4).
-/
def Obligations.DeadlineExpiryEndsTheTime : Prop :=
  ∀ (s : State) (i : SlotId) (h : HostId),
    ((∀ c, s.copy? i h = some c → c.deadline ≠ some 0 ∨ (c.state ≠ .pending ∧ c.state ≠ .taken)) →
      exec (.deadlineExpiry i h) s = .next s.driveLines)
    ∧ ∀ c, s.copy? i h = some c → c.deadline = some 0 →
      (c.state = .pending →
        exec (.deadlineExpiry i h) s =
          .next (((((s.setCopy i h { c with state := .expired, deadline := none, grace := none }).setDeliv h
            { s.deliv h with queue := (s.deliv h).queue.filter (fun x => x != i) }).escalate i h).judge i).driveLines))
      ∧ (c.state = .taken →
        exec (.deadlineExpiry i h) s =
          .next (((s.setCopy i h
            { c with state := .overdue, deadline := none, grace := some (s.host h).graceLimit }).escalate i h).driveLines))

/-- A grace expiry of an OVERDUE copy and a wake timer expiry of a WAKING host each declare the host LOST (R67, R149 to R153): it
is LOST without a wake timer before its cleanup, and HOSTLOST naming it is raised after; that a row without such a count at 0 is
no event, and changes nothing, is the model's choice (log entry 4). That HOSTLOST is admitted as R153 says, also where R157 reads
as if it must be a repeat, is the model's choice (log entry 23). -/
def Obligations.ExpiryLosesTheHost : Prop :=
  ∀ (s : State) (h : HostId) (lost : State),
    lost = (((s.setHost h { s.host h with state := .lost, wakeTimer := none }).cleanup h).admission (.hostlost h)).driveLines →
    (lost.host h).state = .lost ∧ (lost.host h).wakeTimer = none ∧ Cleared lost h
    ∧ (lost.deliv h).attnLine = false ∧ (lost.host h).wakeLine = false
    ∧ (∀ i, (∃ c, s.copy? i h = some c ∧ c.state = .overdue ∧ c.grace = some 0) →
        exec (.graceExpiry i h) s = .next lost)
    ∧ (∀ i, (∀ c, s.copy? i h = some c → c.state ≠ .overdue ∨ c.grace ≠ some 0) →
        exec (.graceExpiry i h) s = .next s.driveLines)
    ∧ ((s.host h).state = .waking → (s.host h).wakeTimer = some 0 → exec (.wakeTimerExpiry h) s = .next lost)
    ∧ ((s.host h).state ≠ .waking ∨ (s.host h).wakeTimer ≠ some 0 →
        exec (.wakeTimerExpiry h) s = .next s.driveLines)

/-- REFCLK supervision (R160 to R162). A rising edge makes the reference PRESENT with its measure at 0, or restarts the loss
window, and in REF is the dividers' cycle. The measure reaching 1 ms turns START into REF. A loss makes the reference ABSENT, and
in REF turns the clock state to BACKUP and raises REFLOST. It is the model's choice (log entry 4) that the rows of the measure and
of the loss act whatever the counts stand at while the reference is PRESENT, and are no events while it is ABSENT. -/
def Obligations.ReferenceIsSupervised : Prop :=
  ∀ s : State,
    Completes (exec .refclkRisingEdge s) (fun t =>
      t = { s with clock := t.clock } ∧ t.clock.refPresent = true ∧ t.clock.lossWindow = 0
      ∧ t.clock.stability = (if s.clock.refPresent = true then s.clock.stability else 0)
      ∧ t.clock.state = s.clock.state ∧ t.clock.timebase = s.clock.timebase
      ∧ (s.clock.state ≠ .ref → t.clock.dividerUs10 = s.clock.dividerUs10
        ∧ t.clock.dividerUs100 = s.clock.dividerUs100 ∧ t.clock.dividerMs1 = s.clock.dividerMs1)
      ∧ (s.clock.state = .ref → (s.clock.dividerUs10 < 39 → t.clock.dividerUs10 = s.clock.dividerUs10 + 1)
        ∧ (s.clock.dividerUs100 < 399 → t.clock.dividerUs100 = s.clock.dividerUs100 + 1)
        ∧ (s.clock.dividerMs1 < 3999 → t.clock.dividerMs1 = s.clock.dividerMs1 + 1)))
    ∧ (s.clock.refPresent = true →
      exec .stabilityReached s =
        .next { s with
          clock := { s.clock with
            stability := 4000, state := if s.clock.state = .start then .ref else s.clock.state } })
    ∧ (s.clock.refPresent = false → exec .stabilityReached s = .next s ∧ exec .lossDetection s = .next s.driveLines)
    ∧ (s.clock.refPresent = true → s.clock.state = .ref →
      exec .lossDetection s =
        .next ({ s with
          clock := { s.clock with state := .backup, refPresent := false, stability := 0, lossWindow := 0 } }.admission
          .reflost).driveLines)
    ∧ (s.clock.refPresent = true → s.clock.state ≠ .ref →
      exec .lossDetection s =
        .next { s with clock := { s.clock with refPresent := false, stability := 0, lossWindow := 0 } }.driveLines)

/-- Device reset returns every item of every block to the reset value its table gives, with the administrator that the straps
name, and a port whose chip select is low ignores that transaction (R139, R156, R165; Tables 1-1, 2-1, 5-1, 6-1, 8-1, 9-1, 10-1
and 11-1). That the row carries the chip selects (log entry 8), and that the waiting commands are the sender's and stay (log entry
17), is the model's choice. -/
def Obligations.DeviceResetClearsEverything : Prop :=
  ∀ (s : State) (pins : ResetPins), Completes (exec (.deviceReset pins) s) fun t =>
    (∀ i, t.slot i = { generation := 0, record := none }) ∧ t.store.generalLive = 0 ∧ t.store.systemLive = 0
    ∧ (∀ n, t.route n =
        { config :=
            { enabled := false, owner := pins.straps, targets := 0, priority := 1, policy := .all, depth := 1, deadline := 0
              fallback := none, deepWake := false, posters := 0 }
          liveCount := 0, lastOutcome := .none })
    ∧ t.waitList = []
    ∧ (∀ h, t.host h = { state := .offline, graceLimit := 1000, wakeLimit := 1000, wakeTimer := none, wakeLine := false })
    ∧ (∀ h, t.deliv h =
        { queue := [], stack := [], runningLevel := 0, threshold := 0, accepting := false, attnLine := false })
    ∧ (∀ h, t.postUnit h = { receipts := [], reservations := 0 })
    ∧ (∀ n, t.line n =
        { config := { mode := .off, period := .us100, q := 3, group := none }
          qual := { lastSample := false, level := false, disagreement := 0, firstPending := false } })
    ∧ (∀ p, (t.port p).buffer = none ∧ (t.port p).executing = false ∧ (t.port p).dropped = false
        ∧ (t.port p).ignoring = hostIn pins.selected p)
    ∧ t.clock.state = .start ∧ t.clock.refPresent = false ∧ t.clock.stability = 0 ∧ t.clock.dividerUs10 = 0
    ∧ t.clock.dividerUs100 = 0 ∧ t.clock.dividerMs1 = 0 ∧ t.clock.timebase = 0
    ∧ t.administrator = pins.straps ∧ t.pending = s.pending

/-! ## Invariants -/

/-- The machine right after reset meets every invariant that the steps keep. -/
def Obligations.ResetMeetsTheInvariants : Prop :=
  State.reset.LinesDriven ∧ State.reset.RoutesLegal ∧ State.reset.LinesLegal ∧ State.reset.WaitListLegal
    ∧ State.reset.PoolLegal ∧ State.reset.DeliveryAgrees ∧ State.reset.RecordsUnfinished
    ∧ State.reset.AbsentHostsClear ∧ State.reset.ReceiptsLegal ∧ State.reset.ClockLegal

/-- After every step, ATTN_n and WAKE_n stand by their conditions (R101, R155). -/
def Obligations.LinesFollowTheirConditions : Prop :=
  ∀ s t : State, s.LinesDriven → step s = .next t → t.LinesDriven

/-- Every step keeps the routes in range, with posters only on mailboxes and the system routes at depth 1 under the administrator,
and the lines in range, with level lines ungrouped at depth 1 and groups of at most 8 (R24, R28, R104 to R108, R119). -/
def Obligations.ConfigurationStaysLegal : Prop :=
  ∀ s t : State, s.RoutesLegal → s.LinesLegal → step s = .next t → t.RoutesLegal ∧ t.LinesLegal

/-- Every step keeps the pool and the wait list: the counts agree with the live records, at most 44 general records and one of each
system source live, one legal entry for a waiting source, and a source waits only while 44 general records live (R3, R14, R46,
R53). -/
def Obligations.PoolAndWaitListStayLegal : Prop :=
  ∀ s t : State, s.RoutesLegal → s.WaitListLegal → s.PoolLegal → step s = .next t → t.WaitListLegal ∧ t.PoolLegal

/-- Every step keeps each queue the offered copies in order of priority, and each stack at most 4 copies in service, of priorities
that fall strictly from the top, with the running level its top's (R62, R87, R92). -/
def Obligations.QueuesAndStacksStayInOrder : Prop :=
  ∀ s t : State, s.DeliveryAgrees → step s = .next t → t.DeliveryAgrees

/-- Every step leaves every live record with a non-terminal copy (R11, R60). -/
def Obligations.LiveRecordsStayUnfinished : Prop :=
  ∀ s t : State, s.RecordsUnfinished → step s = .next t → t.RecordsUnfinished

/-- Every step keeps the reservations the RESERVED records of their poster, at most 8 places taken, and a host in OFFLINE or LOST
without copies in being, receipts and reservations, the wake timer running exactly in WAKING (R128, R136, R140, R148). -/
def Obligations.HostsAndReceiptsStayLegal : Prop :=
  ∀ s t : State, s.ReceiptsLegal → s.AbsentHostsClear → step s = .next t → t.ReceiptsLegal ∧ t.AbsentHostsClear

/-- Every step keeps the clock's counts in range, the measure of an ABSENT reference at 0, the reference PRESENT in REF and not
yet found stable in START (Table 10-1, R160, R161). -/
def Obligations.ClockStaysLegal : Prop :=
  ∀ s t : State, s.ClockLegal → step s = .next t → t.ClockLegal
end

