-- ==== Sys2Proof/Laws/State.lean ====
section
/-! SUPPORT. What each update of the state leaves alone, field by field, and what a read after a write gives. -/

namespace Sys2Proof.Machine

/-! ## Indexed items -/

@[simp] theorem vget_vset_same {α : Type} {n : Nat} (v : Vector α n) (i : Fin n) (x : α) :
    vget (vset v i x) i = x := by
  simp [vget, vset]

theorem vget_vset_other {α : Type} {n : Nat} (v : Vector α n) (i j : Fin n) (x : α) (h : j ≠ i) :
    vget (vset v i x) j = vget v j := by
  have hij : i.val ≠ j.val := fun e => h (Fin.ext e.symm)
  simp [vget, vset, hij]

theorem vget_vset {α : Type} {n : Nat} (v : Vector α n) (i j : Fin n) (x : α) :
    vget (vset v i x) j = if j = i then x else vget v j := by
  split
  · next h => subst h; exact vget_vset_same v _ x
  · next h => exact vget_vset_other v i j x h

@[simp] theorem vget_vof {α : Type} {n : Nat} (f : Fin n → α) (i : Fin n) : vget (vof f) i = f i := by
  unfold vof vget; simp

theorem vset_vget_self {α : Type} {n : Nat} (v : Vector α n) (i : Fin n) : vset v i (vget v i) = v := by
  simp [vget, vset]

@[simp] theorem vget_replicate {α : Type} {n : Nat} (x : α) (i : Fin n) : vget (Vector.replicate n x) i = x := by
  simp [vget]

@[simp] theorem vof_vget {α : Type} {n : Nat} (v : Vector α n) : vof (fun i => vget v i) = v := by
  ext i h
  unfold vof
  simp [vget]

@[simp] theorem mem_allHosts (h : HostId) : h ∈ allHosts := List.mem_finRange h
@[simp] theorem mem_allSlots (i : SlotId) : i ∈ allSlots := List.mem_finRange i
@[simp] theorem mem_allLines (n : LineId) : n ∈ allLines := List.mem_finRange n

/-! ## Fields that an update leaves -/


@[simp] theorem setSlot_routes (s : State) (i : SlotId) (x : Slot) :
    (s.setSlot i x).routes = s.routes := rfl
@[simp] theorem setSlot_waitList (s : State) (i : SlotId) (x : Slot) :
    (s.setSlot i x).waitList = s.waitList := rfl
@[simp] theorem setSlot_hosts (s : State) (i : SlotId) (x : Slot) :
    (s.setSlot i x).hosts = s.hosts := rfl
@[simp] theorem setSlot_delivery (s : State) (i : SlotId) (x : Slot) :
    (s.setSlot i x).delivery = s.delivery := rfl
@[simp] theorem setSlot_posts (s : State) (i : SlotId) (x : Slot) :
    (s.setSlot i x).posts = s.posts := rfl
@[simp] theorem setSlot_lines (s : State) (i : SlotId) (x : Slot) :
    (s.setSlot i x).lines = s.lines := rfl
@[simp] theorem setSlot_ports (s : State) (i : SlotId) (x : Slot) :
    (s.setSlot i x).ports = s.ports := rfl
@[simp] theorem setSlot_clock (s : State) (i : SlotId) (x : Slot) :
    (s.setSlot i x).clock = s.clock := rfl
@[simp] theorem setSlot_administrator (s : State) (i : SlotId) (x : Slot) :
    (s.setSlot i x).administrator = s.administrator := rfl
@[simp] theorem setSlot_pending (s : State) (i : SlotId) (x : Slot) :
    (s.setSlot i x).pending = s.pending := rfl

@[simp] theorem setRecord_routes (s : State) (i : SlotId) (r : Record) :
    (s.setRecord i r).routes = s.routes := rfl
@[simp] theorem setRecord_waitList (s : State) (i : SlotId) (r : Record) :
    (s.setRecord i r).waitList = s.waitList := rfl
@[simp] theorem setRecord_hosts (s : State) (i : SlotId) (r : Record) :
    (s.setRecord i r).hosts = s.hosts := rfl
@[simp] theorem setRecord_delivery (s : State) (i : SlotId) (r : Record) :
    (s.setRecord i r).delivery = s.delivery := rfl
@[simp] theorem setRecord_posts (s : State) (i : SlotId) (r : Record) :
    (s.setRecord i r).posts = s.posts := rfl
@[simp] theorem setRecord_lines (s : State) (i : SlotId) (r : Record) :
    (s.setRecord i r).lines = s.lines := rfl
@[simp] theorem setRecord_ports (s : State) (i : SlotId) (r : Record) :
    (s.setRecord i r).ports = s.ports := rfl
@[simp] theorem setRecord_clock (s : State) (i : SlotId) (r : Record) :
    (s.setRecord i r).clock = s.clock := rfl
@[simp] theorem setRecord_administrator (s : State) (i : SlotId) (r : Record) :
    (s.setRecord i r).administrator = s.administrator := rfl
@[simp] theorem setRecord_pending (s : State) (i : SlotId) (r : Record) :
    (s.setRecord i r).pending = s.pending := rfl

@[simp] theorem setRoute_store (s : State) (n : SourceId) (x : Route) :
    (s.setRoute n x).store = s.store := rfl
@[simp] theorem setRoute_waitList (s : State) (n : SourceId) (x : Route) :
    (s.setRoute n x).waitList = s.waitList := rfl
@[simp] theorem setRoute_hosts (s : State) (n : SourceId) (x : Route) :
    (s.setRoute n x).hosts = s.hosts := rfl
@[simp] theorem setRoute_delivery (s : State) (n : SourceId) (x : Route) :
    (s.setRoute n x).delivery = s.delivery := rfl
@[simp] theorem setRoute_posts (s : State) (n : SourceId) (x : Route) :
    (s.setRoute n x).posts = s.posts := rfl
@[simp] theorem setRoute_lines (s : State) (n : SourceId) (x : Route) :
    (s.setRoute n x).lines = s.lines := rfl
@[simp] theorem setRoute_ports (s : State) (n : SourceId) (x : Route) :
    (s.setRoute n x).ports = s.ports := rfl
@[simp] theorem setRoute_clock (s : State) (n : SourceId) (x : Route) :
    (s.setRoute n x).clock = s.clock := rfl
@[simp] theorem setRoute_administrator (s : State) (n : SourceId) (x : Route) :
    (s.setRoute n x).administrator = s.administrator := rfl
@[simp] theorem setRoute_pending (s : State) (n : SourceId) (x : Route) :
    (s.setRoute n x).pending = s.pending := rfl

@[simp] theorem setLastOutcome_store (s : State) (n : SourceId) (o : LastOutcome) :
    (s.setLastOutcome n o).store = s.store := rfl
@[simp] theorem setLastOutcome_waitList (s : State) (n : SourceId) (o : LastOutcome) :
    (s.setLastOutcome n o).waitList = s.waitList := rfl
@[simp] theorem setLastOutcome_hosts (s : State) (n : SourceId) (o : LastOutcome) :
    (s.setLastOutcome n o).hosts = s.hosts := rfl
@[simp] theorem setLastOutcome_delivery (s : State) (n : SourceId) (o : LastOutcome) :
    (s.setLastOutcome n o).delivery = s.delivery := rfl
@[simp] theorem setLastOutcome_posts (s : State) (n : SourceId) (o : LastOutcome) :
    (s.setLastOutcome n o).posts = s.posts := rfl
@[simp] theorem setLastOutcome_lines (s : State) (n : SourceId) (o : LastOutcome) :
    (s.setLastOutcome n o).lines = s.lines := rfl
@[simp] theorem setLastOutcome_ports (s : State) (n : SourceId) (o : LastOutcome) :
    (s.setLastOutcome n o).ports = s.ports := rfl
@[simp] theorem setLastOutcome_clock (s : State) (n : SourceId) (o : LastOutcome) :
    (s.setLastOutcome n o).clock = s.clock := rfl
@[simp] theorem setLastOutcome_administrator (s : State) (n : SourceId) (o : LastOutcome) :
    (s.setLastOutcome n o).administrator = s.administrator := rfl
@[simp] theorem setLastOutcome_pending (s : State) (n : SourceId) (o : LastOutcome) :
    (s.setLastOutcome n o).pending = s.pending := rfl

@[simp] theorem countRoute_store (s : State) (n : SourceId) (f : Nat → Nat) :
    (s.countRoute n f).store = s.store := rfl
@[simp] theorem countRoute_waitList (s : State) (n : SourceId) (f : Nat → Nat) :
    (s.countRoute n f).waitList = s.waitList := rfl
@[simp] theorem countRoute_hosts (s : State) (n : SourceId) (f : Nat → Nat) :
    (s.countRoute n f).hosts = s.hosts := rfl
@[simp] theorem countRoute_delivery (s : State) (n : SourceId) (f : Nat → Nat) :
    (s.countRoute n f).delivery = s.delivery := rfl
@[simp] theorem countRoute_posts (s : State) (n : SourceId) (f : Nat → Nat) :
    (s.countRoute n f).posts = s.posts := rfl
@[simp] theorem countRoute_lines (s : State) (n : SourceId) (f : Nat → Nat) :
    (s.countRoute n f).lines = s.lines := rfl
@[simp] theorem countRoute_ports (s : State) (n : SourceId) (f : Nat → Nat) :
    (s.countRoute n f).ports = s.ports := rfl
@[simp] theorem countRoute_clock (s : State) (n : SourceId) (f : Nat → Nat) :
    (s.countRoute n f).clock = s.clock := rfl
@[simp] theorem countRoute_administrator (s : State) (n : SourceId) (f : Nat → Nat) :
    (s.countRoute n f).administrator = s.administrator := rfl
@[simp] theorem countRoute_pending (s : State) (n : SourceId) (f : Nat → Nat) :
    (s.countRoute n f).pending = s.pending := rfl

@[simp] theorem setHost_store (s : State) (h : HostId) (x : HostRecord) :
    (s.setHost h x).store = s.store := rfl
@[simp] theorem setHost_routes (s : State) (h : HostId) (x : HostRecord) :
    (s.setHost h x).routes = s.routes := rfl
@[simp] theorem setHost_waitList (s : State) (h : HostId) (x : HostRecord) :
    (s.setHost h x).waitList = s.waitList := rfl
@[simp] theorem setHost_delivery (s : State) (h : HostId) (x : HostRecord) :
    (s.setHost h x).delivery = s.delivery := rfl
@[simp] theorem setHost_posts (s : State) (h : HostId) (x : HostRecord) :
    (s.setHost h x).posts = s.posts := rfl
@[simp] theorem setHost_lines (s : State) (h : HostId) (x : HostRecord) :
    (s.setHost h x).lines = s.lines := rfl
@[simp] theorem setHost_ports (s : State) (h : HostId) (x : HostRecord) :
    (s.setHost h x).ports = s.ports := rfl
@[simp] theorem setHost_clock (s : State) (h : HostId) (x : HostRecord) :
    (s.setHost h x).clock = s.clock := rfl
@[simp] theorem setHost_administrator (s : State) (h : HostId) (x : HostRecord) :
    (s.setHost h x).administrator = s.administrator := rfl
@[simp] theorem setHost_pending (s : State) (h : HostId) (x : HostRecord) :
    (s.setHost h x).pending = s.pending := rfl

@[simp] theorem setHostState_store (s : State) (h : HostId) (x : HostState) :
    (s.setHostState h x).store = s.store := rfl
@[simp] theorem setHostState_routes (s : State) (h : HostId) (x : HostState) :
    (s.setHostState h x).routes = s.routes := rfl
@[simp] theorem setHostState_waitList (s : State) (h : HostId) (x : HostState) :
    (s.setHostState h x).waitList = s.waitList := rfl
@[simp] theorem setHostState_delivery (s : State) (h : HostId) (x : HostState) :
    (s.setHostState h x).delivery = s.delivery := rfl
@[simp] theorem setHostState_posts (s : State) (h : HostId) (x : HostState) :
    (s.setHostState h x).posts = s.posts := rfl
@[simp] theorem setHostState_lines (s : State) (h : HostId) (x : HostState) :
    (s.setHostState h x).lines = s.lines := rfl
@[simp] theorem setHostState_ports (s : State) (h : HostId) (x : HostState) :
    (s.setHostState h x).ports = s.ports := rfl
@[simp] theorem setHostState_clock (s : State) (h : HostId) (x : HostState) :
    (s.setHostState h x).clock = s.clock := rfl
@[simp] theorem setHostState_administrator (s : State) (h : HostId) (x : HostState) :
    (s.setHostState h x).administrator = s.administrator := rfl
@[simp] theorem setHostState_pending (s : State) (h : HostId) (x : HostState) :
    (s.setHostState h x).pending = s.pending := rfl

@[simp] theorem setDeliv_store (s : State) (h : HostId) (d : Delivery) :
    (s.setDeliv h d).store = s.store := rfl
@[simp] theorem setDeliv_routes (s : State) (h : HostId) (d : Delivery) :
    (s.setDeliv h d).routes = s.routes := rfl
@[simp] theorem setDeliv_waitList (s : State) (h : HostId) (d : Delivery) :
    (s.setDeliv h d).waitList = s.waitList := rfl
@[simp] theorem setDeliv_hosts (s : State) (h : HostId) (d : Delivery) :
    (s.setDeliv h d).hosts = s.hosts := rfl
@[simp] theorem setDeliv_posts (s : State) (h : HostId) (d : Delivery) :
    (s.setDeliv h d).posts = s.posts := rfl
@[simp] theorem setDeliv_lines (s : State) (h : HostId) (d : Delivery) :
    (s.setDeliv h d).lines = s.lines := rfl
@[simp] theorem setDeliv_ports (s : State) (h : HostId) (d : Delivery) :
    (s.setDeliv h d).ports = s.ports := rfl
@[simp] theorem setDeliv_clock (s : State) (h : HostId) (d : Delivery) :
    (s.setDeliv h d).clock = s.clock := rfl
@[simp] theorem setDeliv_administrator (s : State) (h : HostId) (d : Delivery) :
    (s.setDeliv h d).administrator = s.administrator := rfl
@[simp] theorem setDeliv_pending (s : State) (h : HostId) (d : Delivery) :
    (s.setDeliv h d).pending = s.pending := rfl

@[simp] theorem enqueue_store (s : State) (h : HostId) (i : SlotId) :
    (s.enqueue h i).store = s.store := rfl
@[simp] theorem enqueue_routes (s : State) (h : HostId) (i : SlotId) :
    (s.enqueue h i).routes = s.routes := rfl
@[simp] theorem enqueue_waitList (s : State) (h : HostId) (i : SlotId) :
    (s.enqueue h i).waitList = s.waitList := rfl
@[simp] theorem enqueue_hosts (s : State) (h : HostId) (i : SlotId) :
    (s.enqueue h i).hosts = s.hosts := rfl
@[simp] theorem enqueue_posts (s : State) (h : HostId) (i : SlotId) :
    (s.enqueue h i).posts = s.posts := rfl
@[simp] theorem enqueue_lines (s : State) (h : HostId) (i : SlotId) :
    (s.enqueue h i).lines = s.lines := rfl
@[simp] theorem enqueue_ports (s : State) (h : HostId) (i : SlotId) :
    (s.enqueue h i).ports = s.ports := rfl
@[simp] theorem enqueue_clock (s : State) (h : HostId) (i : SlotId) :
    (s.enqueue h i).clock = s.clock := rfl
@[simp] theorem enqueue_administrator (s : State) (h : HostId) (i : SlotId) :
    (s.enqueue h i).administrator = s.administrator := rfl
@[simp] theorem enqueue_pending (s : State) (h : HostId) (i : SlotId) :
    (s.enqueue h i).pending = s.pending := rfl

@[simp] theorem dequeue_store (s : State) (h : HostId) (i : SlotId) :
    (s.dequeue h i).store = s.store := rfl
@[simp] theorem dequeue_routes (s : State) (h : HostId) (i : SlotId) :
    (s.dequeue h i).routes = s.routes := rfl
@[simp] theorem dequeue_waitList (s : State) (h : HostId) (i : SlotId) :
    (s.dequeue h i).waitList = s.waitList := rfl
@[simp] theorem dequeue_hosts (s : State) (h : HostId) (i : SlotId) :
    (s.dequeue h i).hosts = s.hosts := rfl
@[simp] theorem dequeue_posts (s : State) (h : HostId) (i : SlotId) :
    (s.dequeue h i).posts = s.posts := rfl
@[simp] theorem dequeue_lines (s : State) (h : HostId) (i : SlotId) :
    (s.dequeue h i).lines = s.lines := rfl
@[simp] theorem dequeue_ports (s : State) (h : HostId) (i : SlotId) :
    (s.dequeue h i).ports = s.ports := rfl
@[simp] theorem dequeue_clock (s : State) (h : HostId) (i : SlotId) :
    (s.dequeue h i).clock = s.clock := rfl
@[simp] theorem dequeue_administrator (s : State) (h : HostId) (i : SlotId) :
    (s.dequeue h i).administrator = s.administrator := rfl
@[simp] theorem dequeue_pending (s : State) (h : HostId) (i : SlotId) :
    (s.dequeue h i).pending = s.pending := rfl

@[simp] theorem pushStack_store (s : State) (h : HostId) (i : SlotId) :
    (s.pushStack h i).store = s.store := rfl
@[simp] theorem pushStack_routes (s : State) (h : HostId) (i : SlotId) :
    (s.pushStack h i).routes = s.routes := rfl
@[simp] theorem pushStack_waitList (s : State) (h : HostId) (i : SlotId) :
    (s.pushStack h i).waitList = s.waitList := rfl
@[simp] theorem pushStack_hosts (s : State) (h : HostId) (i : SlotId) :
    (s.pushStack h i).hosts = s.hosts := rfl
@[simp] theorem pushStack_posts (s : State) (h : HostId) (i : SlotId) :
    (s.pushStack h i).posts = s.posts := rfl
@[simp] theorem pushStack_lines (s : State) (h : HostId) (i : SlotId) :
    (s.pushStack h i).lines = s.lines := rfl
@[simp] theorem pushStack_ports (s : State) (h : HostId) (i : SlotId) :
    (s.pushStack h i).ports = s.ports := rfl
@[simp] theorem pushStack_clock (s : State) (h : HostId) (i : SlotId) :
    (s.pushStack h i).clock = s.clock := rfl
@[simp] theorem pushStack_administrator (s : State) (h : HostId) (i : SlotId) :
    (s.pushStack h i).administrator = s.administrator := rfl
@[simp] theorem pushStack_pending (s : State) (h : HostId) (i : SlotId) :
    (s.pushStack h i).pending = s.pending := rfl

@[simp] theorem popStack_store (s : State) (h : HostId) :
    (s.popStack h).store = s.store := rfl
@[simp] theorem popStack_routes (s : State) (h : HostId) :
    (s.popStack h).routes = s.routes := rfl
@[simp] theorem popStack_waitList (s : State) (h : HostId) :
    (s.popStack h).waitList = s.waitList := rfl
@[simp] theorem popStack_hosts (s : State) (h : HostId) :
    (s.popStack h).hosts = s.hosts := rfl
@[simp] theorem popStack_posts (s : State) (h : HostId) :
    (s.popStack h).posts = s.posts := rfl
@[simp] theorem popStack_lines (s : State) (h : HostId) :
    (s.popStack h).lines = s.lines := rfl
@[simp] theorem popStack_ports (s : State) (h : HostId) :
    (s.popStack h).ports = s.ports := rfl
@[simp] theorem popStack_clock (s : State) (h : HostId) :
    (s.popStack h).clock = s.clock := rfl
@[simp] theorem popStack_administrator (s : State) (h : HostId) :
    (s.popStack h).administrator = s.administrator := rfl
@[simp] theorem popStack_pending (s : State) (h : HostId) :
    (s.popStack h).pending = s.pending := rfl

@[simp] theorem clearDelivery_store (s : State) (h : HostId) :
    (s.clearDelivery h).store = s.store := rfl
@[simp] theorem clearDelivery_routes (s : State) (h : HostId) :
    (s.clearDelivery h).routes = s.routes := rfl
@[simp] theorem clearDelivery_waitList (s : State) (h : HostId) :
    (s.clearDelivery h).waitList = s.waitList := rfl
@[simp] theorem clearDelivery_hosts (s : State) (h : HostId) :
    (s.clearDelivery h).hosts = s.hosts := rfl
@[simp] theorem clearDelivery_posts (s : State) (h : HostId) :
    (s.clearDelivery h).posts = s.posts := rfl
@[simp] theorem clearDelivery_lines (s : State) (h : HostId) :
    (s.clearDelivery h).lines = s.lines := rfl
@[simp] theorem clearDelivery_ports (s : State) (h : HostId) :
    (s.clearDelivery h).ports = s.ports := rfl
@[simp] theorem clearDelivery_clock (s : State) (h : HostId) :
    (s.clearDelivery h).clock = s.clock := rfl
@[simp] theorem clearDelivery_administrator (s : State) (h : HostId) :
    (s.clearDelivery h).administrator = s.administrator := rfl
@[simp] theorem clearDelivery_pending (s : State) (h : HostId) :
    (s.clearDelivery h).pending = s.pending := rfl

@[simp] theorem setPostUnit_store (s : State) (h : HostId) (p : PostUnit) :
    (s.setPostUnit h p).store = s.store := rfl
@[simp] theorem setPostUnit_routes (s : State) (h : HostId) (p : PostUnit) :
    (s.setPostUnit h p).routes = s.routes := rfl
@[simp] theorem setPostUnit_waitList (s : State) (h : HostId) (p : PostUnit) :
    (s.setPostUnit h p).waitList = s.waitList := rfl
@[simp] theorem setPostUnit_hosts (s : State) (h : HostId) (p : PostUnit) :
    (s.setPostUnit h p).hosts = s.hosts := rfl
@[simp] theorem setPostUnit_delivery (s : State) (h : HostId) (p : PostUnit) :
    (s.setPostUnit h p).delivery = s.delivery := rfl
@[simp] theorem setPostUnit_lines (s : State) (h : HostId) (p : PostUnit) :
    (s.setPostUnit h p).lines = s.lines := rfl
@[simp] theorem setPostUnit_ports (s : State) (h : HostId) (p : PostUnit) :
    (s.setPostUnit h p).ports = s.ports := rfl
@[simp] theorem setPostUnit_clock (s : State) (h : HostId) (p : PostUnit) :
    (s.setPostUnit h p).clock = s.clock := rfl
@[simp] theorem setPostUnit_administrator (s : State) (h : HostId) (p : PostUnit) :
    (s.setPostUnit h p).administrator = s.administrator := rfl
@[simp] theorem setPostUnit_pending (s : State) (h : HostId) (p : PostUnit) :
    (s.setPostUnit h p).pending = s.pending := rfl

@[simp] theorem setLine_store (s : State) (n : LineId) (l : Line) :
    (s.setLine n l).store = s.store := rfl
@[simp] theorem setLine_routes (s : State) (n : LineId) (l : Line) :
    (s.setLine n l).routes = s.routes := rfl
@[simp] theorem setLine_waitList (s : State) (n : LineId) (l : Line) :
    (s.setLine n l).waitList = s.waitList := rfl
@[simp] theorem setLine_hosts (s : State) (n : LineId) (l : Line) :
    (s.setLine n l).hosts = s.hosts := rfl
@[simp] theorem setLine_delivery (s : State) (n : LineId) (l : Line) :
    (s.setLine n l).delivery = s.delivery := rfl
@[simp] theorem setLine_posts (s : State) (n : LineId) (l : Line) :
    (s.setLine n l).posts = s.posts := rfl
@[simp] theorem setLine_ports (s : State) (n : LineId) (l : Line) :
    (s.setLine n l).ports = s.ports := rfl
@[simp] theorem setLine_clock (s : State) (n : LineId) (l : Line) :
    (s.setLine n l).clock = s.clock := rfl
@[simp] theorem setLine_administrator (s : State) (n : LineId) (l : Line) :
    (s.setLine n l).administrator = s.administrator := rfl
@[simp] theorem setLine_pending (s : State) (n : LineId) (l : Line) :
    (s.setLine n l).pending = s.pending := rfl

@[simp] theorem setPort_store (s : State) (p : HostId) (x : Port) :
    (s.setPort p x).store = s.store := rfl
@[simp] theorem setPort_routes (s : State) (p : HostId) (x : Port) :
    (s.setPort p x).routes = s.routes := rfl
@[simp] theorem setPort_waitList (s : State) (p : HostId) (x : Port) :
    (s.setPort p x).waitList = s.waitList := rfl
@[simp] theorem setPort_hosts (s : State) (p : HostId) (x : Port) :
    (s.setPort p x).hosts = s.hosts := rfl
@[simp] theorem setPort_delivery (s : State) (p : HostId) (x : Port) :
    (s.setPort p x).delivery = s.delivery := rfl
@[simp] theorem setPort_posts (s : State) (p : HostId) (x : Port) :
    (s.setPort p x).posts = s.posts := rfl
@[simp] theorem setPort_lines (s : State) (p : HostId) (x : Port) :
    (s.setPort p x).lines = s.lines := rfl
@[simp] theorem setPort_clock (s : State) (p : HostId) (x : Port) :
    (s.setPort p x).clock = s.clock := rfl
@[simp] theorem setPort_administrator (s : State) (p : HostId) (x : Port) :
    (s.setPort p x).administrator = s.administrator := rfl
@[simp] theorem setPort_pending (s : State) (p : HostId) (x : Port) :
    (s.setPort p x).pending = s.pending := rfl

@[simp] theorem countBirth_routes (s : State) :
    s.countBirth.routes = s.routes := rfl
@[simp] theorem countBirth_waitList (s : State) :
    s.countBirth.waitList = s.waitList := rfl
@[simp] theorem countBirth_hosts (s : State) :
    s.countBirth.hosts = s.hosts := rfl
@[simp] theorem countBirth_delivery (s : State) :
    s.countBirth.delivery = s.delivery := rfl
@[simp] theorem countBirth_posts (s : State) :
    s.countBirth.posts = s.posts := rfl
@[simp] theorem countBirth_lines (s : State) :
    s.countBirth.lines = s.lines := rfl
@[simp] theorem countBirth_ports (s : State) :
    s.countBirth.ports = s.ports := rfl
@[simp] theorem countBirth_clock (s : State) :
    s.countBirth.clock = s.clock := rfl
@[simp] theorem countBirth_administrator (s : State) :
    s.countBirth.administrator = s.administrator := rfl
@[simp] theorem countBirth_pending (s : State) :
    s.countBirth.pending = s.pending := rfl

@[simp] theorem mapCopies_routes (s : State) (h : HostId) (f : Copy → Copy) :
    (s.mapCopies h f).routes = s.routes := rfl
@[simp] theorem mapCopies_waitList (s : State) (h : HostId) (f : Copy → Copy) :
    (s.mapCopies h f).waitList = s.waitList := rfl
@[simp] theorem mapCopies_hosts (s : State) (h : HostId) (f : Copy → Copy) :
    (s.mapCopies h f).hosts = s.hosts := rfl
@[simp] theorem mapCopies_delivery (s : State) (h : HostId) (f : Copy → Copy) :
    (s.mapCopies h f).delivery = s.delivery := rfl
@[simp] theorem mapCopies_posts (s : State) (h : HostId) (f : Copy → Copy) :
    (s.mapCopies h f).posts = s.posts := rfl
@[simp] theorem mapCopies_lines (s : State) (h : HostId) (f : Copy → Copy) :
    (s.mapCopies h f).lines = s.lines := rfl
@[simp] theorem mapCopies_ports (s : State) (h : HostId) (f : Copy → Copy) :
    (s.mapCopies h f).ports = s.ports := rfl
@[simp] theorem mapCopies_clock (s : State) (h : HostId) (f : Copy → Copy) :
    (s.mapCopies h f).clock = s.clock := rfl
@[simp] theorem mapCopies_administrator (s : State) (h : HostId) (f : Copy → Copy) :
    (s.mapCopies h f).administrator = s.administrator := rfl
@[simp] theorem mapCopies_pending (s : State) (h : HostId) (f : Copy → Copy) :
    (s.mapCopies h f).pending = s.pending := rfl

@[simp] theorem dropWaiting_store (s : State) (n : SourceId) :
    (s.dropWaiting n).store = s.store := rfl
@[simp] theorem dropWaiting_routes (s : State) (n : SourceId) :
    (s.dropWaiting n).routes = s.routes := rfl
@[simp] theorem dropWaiting_hosts (s : State) (n : SourceId) :
    (s.dropWaiting n).hosts = s.hosts := rfl
@[simp] theorem dropWaiting_delivery (s : State) (n : SourceId) :
    (s.dropWaiting n).delivery = s.delivery := rfl
@[simp] theorem dropWaiting_posts (s : State) (n : SourceId) :
    (s.dropWaiting n).posts = s.posts := rfl
@[simp] theorem dropWaiting_lines (s : State) (n : SourceId) :
    (s.dropWaiting n).lines = s.lines := rfl
@[simp] theorem dropWaiting_ports (s : State) (n : SourceId) :
    (s.dropWaiting n).ports = s.ports := rfl
@[simp] theorem dropWaiting_clock (s : State) (n : SourceId) :
    (s.dropWaiting n).clock = s.clock := rfl
@[simp] theorem dropWaiting_administrator (s : State) (n : SourceId) :
    (s.dropWaiting n).administrator = s.administrator := rfl
@[simp] theorem dropWaiting_pending (s : State) (n : SourceId) :
    (s.dropWaiting n).pending = s.pending := rfl

@[simp] theorem countWaiting_store (s : State) (ev : RawEvent) :
    (s.countWaiting ev).store = s.store := rfl
@[simp] theorem countWaiting_routes (s : State) (ev : RawEvent) :
    (s.countWaiting ev).routes = s.routes := rfl
@[simp] theorem countWaiting_hosts (s : State) (ev : RawEvent) :
    (s.countWaiting ev).hosts = s.hosts := rfl
@[simp] theorem countWaiting_delivery (s : State) (ev : RawEvent) :
    (s.countWaiting ev).delivery = s.delivery := rfl
@[simp] theorem countWaiting_posts (s : State) (ev : RawEvent) :
    (s.countWaiting ev).posts = s.posts := rfl
@[simp] theorem countWaiting_lines (s : State) (ev : RawEvent) :
    (s.countWaiting ev).lines = s.lines := rfl
@[simp] theorem countWaiting_ports (s : State) (ev : RawEvent) :
    (s.countWaiting ev).ports = s.ports := rfl
@[simp] theorem countWaiting_clock (s : State) (ev : RawEvent) :
    (s.countWaiting ev).clock = s.clock := rfl
@[simp] theorem countWaiting_administrator (s : State) (ev : RawEvent) :
    (s.countWaiting ev).administrator = s.administrator := rfl
@[simp] theorem countWaiting_pending (s : State) (ev : RawEvent) :
    (s.countWaiting ev).pending = s.pending := rfl

@[simp] theorem drivesZero_store (s : State) (p : HostId) (n : Nat) :
    (s.drivesZero p n).store = s.store := rfl
@[simp] theorem drivesZero_routes (s : State) (p : HostId) (n : Nat) :
    (s.drivesZero p n).routes = s.routes := rfl
@[simp] theorem drivesZero_waitList (s : State) (p : HostId) (n : Nat) :
    (s.drivesZero p n).waitList = s.waitList := rfl
@[simp] theorem drivesZero_hosts (s : State) (p : HostId) (n : Nat) :
    (s.drivesZero p n).hosts = s.hosts := rfl
@[simp] theorem drivesZero_delivery (s : State) (p : HostId) (n : Nat) :
    (s.drivesZero p n).delivery = s.delivery := rfl
@[simp] theorem drivesZero_posts (s : State) (p : HostId) (n : Nat) :
    (s.drivesZero p n).posts = s.posts := rfl
@[simp] theorem drivesZero_lines (s : State) (p : HostId) (n : Nat) :
    (s.drivesZero p n).lines = s.lines := rfl
@[simp] theorem drivesZero_clock (s : State) (p : HostId) (n : Nat) :
    (s.drivesZero p n).clock = s.clock := rfl
@[simp] theorem drivesZero_administrator (s : State) (p : HostId) (n : Nat) :
    (s.drivesZero p n).administrator = s.administrator := rfl
@[simp] theorem drivesZero_pending (s : State) (p : HostId) (n : Nat) :
    (s.drivesZero p n).pending = s.pending := rfl

@[simp] theorem placeAnswer_store (s : State) (p : HostId) (r : Response) :
    (s.placeAnswer p r).store = s.store := rfl
@[simp] theorem placeAnswer_routes (s : State) (p : HostId) (r : Response) :
    (s.placeAnswer p r).routes = s.routes := rfl
@[simp] theorem placeAnswer_waitList (s : State) (p : HostId) (r : Response) :
    (s.placeAnswer p r).waitList = s.waitList := rfl
@[simp] theorem placeAnswer_hosts (s : State) (p : HostId) (r : Response) :
    (s.placeAnswer p r).hosts = s.hosts := rfl
@[simp] theorem placeAnswer_delivery (s : State) (p : HostId) (r : Response) :
    (s.placeAnswer p r).delivery = s.delivery := rfl
@[simp] theorem placeAnswer_posts (s : State) (p : HostId) (r : Response) :
    (s.placeAnswer p r).posts = s.posts := rfl
@[simp] theorem placeAnswer_lines (s : State) (p : HostId) (r : Response) :
    (s.placeAnswer p r).lines = s.lines := rfl
@[simp] theorem placeAnswer_clock (s : State) (p : HostId) (r : Response) :
    (s.placeAnswer p r).clock = s.clock := rfl
@[simp] theorem placeAnswer_administrator (s : State) (p : HostId) (r : Response) :
    (s.placeAnswer p r).administrator = s.administrator := rfl
@[simp] theorem placeAnswer_pending (s : State) (p : HostId) (r : Response) :
    (s.placeAnswer p r).pending = s.pending := rfl

@[simp] theorem dropRequest_store (s : State) (p : HostId) :
    (s.dropRequest p).store = s.store := rfl
@[simp] theorem dropRequest_routes (s : State) (p : HostId) :
    (s.dropRequest p).routes = s.routes := rfl
@[simp] theorem dropRequest_waitList (s : State) (p : HostId) :
    (s.dropRequest p).waitList = s.waitList := rfl
@[simp] theorem dropRequest_hosts (s : State) (p : HostId) :
    (s.dropRequest p).hosts = s.hosts := rfl
@[simp] theorem dropRequest_delivery (s : State) (p : HostId) :
    (s.dropRequest p).delivery = s.delivery := rfl
@[simp] theorem dropRequest_posts (s : State) (p : HostId) :
    (s.dropRequest p).posts = s.posts := rfl
@[simp] theorem dropRequest_lines (s : State) (p : HostId) :
    (s.dropRequest p).lines = s.lines := rfl
@[simp] theorem dropRequest_clock (s : State) (p : HostId) :
    (s.dropRequest p).clock = s.clock := rfl
@[simp] theorem dropRequest_administrator (s : State) (p : HostId) :
    (s.dropRequest p).administrator = s.administrator := rfl
@[simp] theorem dropRequest_pending (s : State) (p : HostId) :
    (s.dropRequest p).pending = s.pending := rfl
@[simp] theorem ignoreTransaction_store (s : State) (p : HostId) :
    (s.ignoreTransaction p).store = s.store := rfl
@[simp] theorem ignoreTransaction_routes (s : State) (p : HostId) :
    (s.ignoreTransaction p).routes = s.routes := rfl
@[simp] theorem ignoreTransaction_waitList (s : State) (p : HostId) :
    (s.ignoreTransaction p).waitList = s.waitList := rfl
@[simp] theorem ignoreTransaction_hosts (s : State) (p : HostId) :
    (s.ignoreTransaction p).hosts = s.hosts := rfl
@[simp] theorem ignoreTransaction_delivery (s : State) (p : HostId) :
    (s.ignoreTransaction p).delivery = s.delivery := rfl
@[simp] theorem ignoreTransaction_posts (s : State) (p : HostId) :
    (s.ignoreTransaction p).posts = s.posts := rfl
@[simp] theorem ignoreTransaction_lines (s : State) (p : HostId) :
    (s.ignoreTransaction p).lines = s.lines := rfl
@[simp] theorem ignoreTransaction_clock (s : State) (p : HostId) :
    (s.ignoreTransaction p).clock = s.clock := rfl
@[simp] theorem ignoreTransaction_administrator (s : State) (p : HostId) :
    (s.ignoreTransaction p).administrator = s.administrator := rfl
@[simp] theorem ignoreTransaction_pending (s : State) (p : HostId) :
    (s.ignoreTransaction p).pending = s.pending := rfl

@[simp] theorem answerAtOnce_store (s : State) (p : HostId) (c : ResultCode) :
    (s.answerAtOnce p c).store = s.store := rfl
@[simp] theorem answerAtOnce_routes (s : State) (p : HostId) (c : ResultCode) :
    (s.answerAtOnce p c).routes = s.routes := rfl
@[simp] theorem answerAtOnce_waitList (s : State) (p : HostId) (c : ResultCode) :
    (s.answerAtOnce p c).waitList = s.waitList := rfl
@[simp] theorem answerAtOnce_hosts (s : State) (p : HostId) (c : ResultCode) :
    (s.answerAtOnce p c).hosts = s.hosts := rfl
@[simp] theorem answerAtOnce_delivery (s : State) (p : HostId) (c : ResultCode) :
    (s.answerAtOnce p c).delivery = s.delivery := rfl
@[simp] theorem answerAtOnce_posts (s : State) (p : HostId) (c : ResultCode) :
    (s.answerAtOnce p c).posts = s.posts := rfl
@[simp] theorem answerAtOnce_lines (s : State) (p : HostId) (c : ResultCode) :
    (s.answerAtOnce p c).lines = s.lines := rfl
@[simp] theorem answerAtOnce_clock (s : State) (p : HostId) (c : ResultCode) :
    (s.answerAtOnce p c).clock = s.clock := rfl
@[simp] theorem answerAtOnce_administrator (s : State) (p : HostId) (c : ResultCode) :
    (s.answerAtOnce p c).administrator = s.administrator := rfl
@[simp] theorem answerAtOnce_pending (s : State) (p : HostId) (c : ResultCode) :
    (s.answerAtOnce p c).pending = s.pending := rfl

@[simp] theorem fetchOn_store (s : State) (p : HostId) (n : Nat) :
    (s.fetchOn p n).store = s.store := rfl
@[simp] theorem fetchOn_routes (s : State) (p : HostId) (n : Nat) :
    (s.fetchOn p n).routes = s.routes := rfl
@[simp] theorem fetchOn_waitList (s : State) (p : HostId) (n : Nat) :
    (s.fetchOn p n).waitList = s.waitList := rfl
@[simp] theorem fetchOn_hosts (s : State) (p : HostId) (n : Nat) :
    (s.fetchOn p n).hosts = s.hosts := rfl
@[simp] theorem fetchOn_delivery (s : State) (p : HostId) (n : Nat) :
    (s.fetchOn p n).delivery = s.delivery := rfl
@[simp] theorem fetchOn_posts (s : State) (p : HostId) (n : Nat) :
    (s.fetchOn p n).posts = s.posts := rfl
@[simp] theorem fetchOn_lines (s : State) (p : HostId) (n : Nat) :
    (s.fetchOn p n).lines = s.lines := rfl
@[simp] theorem fetchOn_clock (s : State) (p : HostId) (n : Nat) :
    (s.fetchOn p n).clock = s.clock := rfl
@[simp] theorem fetchOn_administrator (s : State) (p : HostId) (n : Nat) :
    (s.fetchOn p n).administrator = s.administrator := rfl
@[simp] theorem fetchOn_pending (s : State) (p : HostId) (n : Nat) :
    (s.fetchOn p n).pending = s.pending := rfl

@[simp] theorem oscillatorCycle_store (s : State) :
    s.oscillatorCycle.store = s.store := rfl
@[simp] theorem oscillatorCycle_routes (s : State) :
    s.oscillatorCycle.routes = s.routes := rfl
@[simp] theorem oscillatorCycle_waitList (s : State) :
    s.oscillatorCycle.waitList = s.waitList := rfl
@[simp] theorem oscillatorCycle_hosts (s : State) :
    s.oscillatorCycle.hosts = s.hosts := rfl
@[simp] theorem oscillatorCycle_delivery (s : State) :
    s.oscillatorCycle.delivery = s.delivery := rfl
@[simp] theorem oscillatorCycle_posts (s : State) :
    s.oscillatorCycle.posts = s.posts := rfl
@[simp] theorem oscillatorCycle_lines (s : State) :
    s.oscillatorCycle.lines = s.lines := rfl
@[simp] theorem oscillatorCycle_ports (s : State) :
    s.oscillatorCycle.ports = s.ports := rfl
@[simp] theorem oscillatorCycle_administrator (s : State) :
    s.oscillatorCycle.administrator = s.administrator := rfl
@[simp] theorem oscillatorCycle_pending (s : State) :
    s.oscillatorCycle.pending = s.pending := rfl
@[simp] theorem driveLines_store (s : State) : s.driveLines.store = s.store := rfl
@[simp] theorem driveLines_routes (s : State) : s.driveLines.routes = s.routes := rfl
@[simp] theorem driveLines_waitList (s : State) : s.driveLines.waitList = s.waitList := rfl
@[simp] theorem driveLines_posts (s : State) : s.driveLines.posts = s.posts := rfl
@[simp] theorem driveLines_lines (s : State) : s.driveLines.lines = s.lines := rfl
@[simp] theorem driveLines_ports (s : State) : s.driveLines.ports = s.ports := rfl
@[simp] theorem driveLines_clock (s : State) : s.driveLines.clock = s.clock := rfl
@[simp] theorem driveLines_administrator (s : State) : s.driveLines.administrator = s.administrator := rfl
@[simp] theorem driveLines_pending (s : State) : s.driveLines.pending = s.pending := rfl

/-! ## Reads after writes -/


@[simp] theorem slot_setSlot_same (s : State) (i : SlotId) (x : Slot) : (s.setSlot i x).slot i = x := by
  simp [State.slot, State.setSlot]

theorem slot_setSlot_other (s : State) (i j : SlotId) (x : Slot) (h : j ≠ i) :
    (s.setSlot i x).slot j = s.slot j := by
  simp only [State.slot, State.setSlot]
  exact vget_vset_other _ _ _ _ h

theorem slot_setSlot (s : State) (i j : SlotId) (x : Slot) :
    (s.setSlot i x).slot j = if j = i then x else s.slot j := by
  simp only [State.slot, State.setSlot]
  exact vget_vset _ _ _ _

@[simp] theorem route_setRoute_same (s : State) (i : SourceId) (x : Route) : (s.setRoute i x).route i = x := by
  simp [State.route, State.setRoute]

theorem route_setRoute_other (s : State) (i j : SourceId) (x : Route) (h : j ≠ i) :
    (s.setRoute i x).route j = s.route j := by
  simp only [State.route, State.setRoute]
  exact vget_vset_other _ _ _ _ h

theorem route_setRoute (s : State) (i j : SourceId) (x : Route) :
    (s.setRoute i x).route j = if j = i then x else s.route j := by
  simp only [State.route, State.setRoute]
  exact vget_vset _ _ _ _

@[simp] theorem host_setHost_same (s : State) (i : HostId) (x : HostRecord) : (s.setHost i x).host i = x := by
  simp [State.host, State.setHost]

theorem host_setHost_other (s : State) (i j : HostId) (x : HostRecord) (h : j ≠ i) :
    (s.setHost i x).host j = s.host j := by
  simp only [State.host, State.setHost]
  exact vget_vset_other _ _ _ _ h

theorem host_setHost (s : State) (i j : HostId) (x : HostRecord) :
    (s.setHost i x).host j = if j = i then x else s.host j := by
  simp only [State.host, State.setHost]
  exact vget_vset _ _ _ _

@[simp] theorem deliv_setDeliv_same (s : State) (i : HostId) (x : Delivery) : (s.setDeliv i x).deliv i = x := by
  simp [State.deliv, State.setDeliv]

theorem deliv_setDeliv_other (s : State) (i j : HostId) (x : Delivery) (h : j ≠ i) :
    (s.setDeliv i x).deliv j = s.deliv j := by
  simp only [State.deliv, State.setDeliv]
  exact vget_vset_other _ _ _ _ h

theorem deliv_setDeliv (s : State) (i j : HostId) (x : Delivery) :
    (s.setDeliv i x).deliv j = if j = i then x else s.deliv j := by
  simp only [State.deliv, State.setDeliv]
  exact vget_vset _ _ _ _

@[simp] theorem postUnit_setPostUnit_same (s : State) (i : HostId) (x : PostUnit) : (s.setPostUnit i x).postUnit i = x := by
  simp [State.postUnit, State.setPostUnit]

theorem postUnit_setPostUnit_other (s : State) (i j : HostId) (x : PostUnit) (h : j ≠ i) :
    (s.setPostUnit i x).postUnit j = s.postUnit j := by
  simp only [State.postUnit, State.setPostUnit]
  exact vget_vset_other _ _ _ _ h

theorem postUnit_setPostUnit (s : State) (i j : HostId) (x : PostUnit) :
    (s.setPostUnit i x).postUnit j = if j = i then x else s.postUnit j := by
  simp only [State.postUnit, State.setPostUnit]
  exact vget_vset _ _ _ _

@[simp] theorem line_setLine_same (s : State) (i : LineId) (x : Line) : (s.setLine i x).line i = x := by
  simp [State.line, State.setLine]

theorem line_setLine_other (s : State) (i j : LineId) (x : Line) (h : j ≠ i) :
    (s.setLine i x).line j = s.line j := by
  simp only [State.line, State.setLine]
  exact vget_vset_other _ _ _ _ h

theorem line_setLine (s : State) (i j : LineId) (x : Line) :
    (s.setLine i x).line j = if j = i then x else s.line j := by
  simp only [State.line, State.setLine]
  exact vget_vset _ _ _ _

@[simp] theorem port_setPort_same (s : State) (i : HostId) (x : Port) : (s.setPort i x).port i = x := by
  simp [State.port, State.setPort]

theorem port_setPort_other (s : State) (i j : HostId) (x : Port) (h : j ≠ i) :
    (s.setPort i x).port j = s.port j := by
  simp only [State.port, State.setPort]
  exact vget_vset_other _ _ _ _ h

theorem port_setPort (s : State) (i j : HostId) (x : Port) :
    (s.setPort i x).port j = if j = i then x else s.port j := by
  simp only [State.port, State.setPort]
  exact vget_vset _ _ _ _

@[simp] theorem route_setSlot (s : State) (i : SlotId) (x : Slot) (k : SourceId) :
    (s.setSlot i x).route k = s.route k := rfl
@[simp] theorem host_setSlot (s : State) (i : SlotId) (x : Slot) (k : HostId) :
    (s.setSlot i x).host k = s.host k := rfl
@[simp] theorem deliv_setSlot (s : State) (i : SlotId) (x : Slot) (k : HostId) :
    (s.setSlot i x).deliv k = s.deliv k := rfl
@[simp] theorem postUnit_setSlot (s : State) (i : SlotId) (x : Slot) (k : HostId) :
    (s.setSlot i x).postUnit k = s.postUnit k := rfl
@[simp] theorem line_setSlot (s : State) (i : SlotId) (x : Slot) (k : LineId) :
    (s.setSlot i x).line k = s.line k := rfl
@[simp] theorem port_setSlot (s : State) (i : SlotId) (x : Slot) (k : HostId) :
    (s.setSlot i x).port k = s.port k := rfl
@[simp] theorem route_setRecord (s : State) (i : SlotId) (r : Record) (k : SourceId) :
    (s.setRecord i r).route k = s.route k := rfl
@[simp] theorem host_setRecord (s : State) (i : SlotId) (r : Record) (k : HostId) :
    (s.setRecord i r).host k = s.host k := rfl
@[simp] theorem deliv_setRecord (s : State) (i : SlotId) (r : Record) (k : HostId) :
    (s.setRecord i r).deliv k = s.deliv k := rfl
@[simp] theorem postUnit_setRecord (s : State) (i : SlotId) (r : Record) (k : HostId) :
    (s.setRecord i r).postUnit k = s.postUnit k := rfl
@[simp] theorem line_setRecord (s : State) (i : SlotId) (r : Record) (k : LineId) :
    (s.setRecord i r).line k = s.line k := rfl
@[simp] theorem port_setRecord (s : State) (i : SlotId) (r : Record) (k : HostId) :
    (s.setRecord i r).port k = s.port k := rfl
@[simp] theorem slot_setRoute (s : State) (n : SourceId) (x : Route) (k : SlotId) :
    (s.setRoute n x).slot k = s.slot k := rfl
@[simp] theorem host_setRoute (s : State) (n : SourceId) (x : Route) (k : HostId) :
    (s.setRoute n x).host k = s.host k := rfl
@[simp] theorem deliv_setRoute (s : State) (n : SourceId) (x : Route) (k : HostId) :
    (s.setRoute n x).deliv k = s.deliv k := rfl
@[simp] theorem postUnit_setRoute (s : State) (n : SourceId) (x : Route) (k : HostId) :
    (s.setRoute n x).postUnit k = s.postUnit k := rfl
@[simp] theorem line_setRoute (s : State) (n : SourceId) (x : Route) (k : LineId) :
    (s.setRoute n x).line k = s.line k := rfl
@[simp] theorem port_setRoute (s : State) (n : SourceId) (x : Route) (k : HostId) :
    (s.setRoute n x).port k = s.port k := rfl
@[simp] theorem slot_setLastOutcome (s : State) (n : SourceId) (o : LastOutcome) (k : SlotId) :
    (s.setLastOutcome n o).slot k = s.slot k := rfl
@[simp] theorem host_setLastOutcome (s : State) (n : SourceId) (o : LastOutcome) (k : HostId) :
    (s.setLastOutcome n o).host k = s.host k := rfl
@[simp] theorem deliv_setLastOutcome (s : State) (n : SourceId) (o : LastOutcome) (k : HostId) :
    (s.setLastOutcome n o).deliv k = s.deliv k := rfl
@[simp] theorem postUnit_setLastOutcome (s : State) (n : SourceId) (o : LastOutcome) (k : HostId) :
    (s.setLastOutcome n o).postUnit k = s.postUnit k := rfl
@[simp] theorem line_setLastOutcome (s : State) (n : SourceId) (o : LastOutcome) (k : LineId) :
    (s.setLastOutcome n o).line k = s.line k := rfl
@[simp] theorem port_setLastOutcome (s : State) (n : SourceId) (o : LastOutcome) (k : HostId) :
    (s.setLastOutcome n o).port k = s.port k := rfl
@[simp] theorem slot_countRoute (s : State) (n : SourceId) (f : Nat → Nat) (k : SlotId) :
    (s.countRoute n f).slot k = s.slot k := rfl
@[simp] theorem host_countRoute (s : State) (n : SourceId) (f : Nat → Nat) (k : HostId) :
    (s.countRoute n f).host k = s.host k := rfl
@[simp] theorem deliv_countRoute (s : State) (n : SourceId) (f : Nat → Nat) (k : HostId) :
    (s.countRoute n f).deliv k = s.deliv k := rfl
@[simp] theorem postUnit_countRoute (s : State) (n : SourceId) (f : Nat → Nat) (k : HostId) :
    (s.countRoute n f).postUnit k = s.postUnit k := rfl
@[simp] theorem line_countRoute (s : State) (n : SourceId) (f : Nat → Nat) (k : LineId) :
    (s.countRoute n f).line k = s.line k := rfl
@[simp] theorem port_countRoute (s : State) (n : SourceId) (f : Nat → Nat) (k : HostId) :
    (s.countRoute n f).port k = s.port k := rfl
@[simp] theorem slot_setHost (s : State) (h : HostId) (x : HostRecord) (k : SlotId) :
    (s.setHost h x).slot k = s.slot k := rfl
@[simp] theorem route_setHost (s : State) (h : HostId) (x : HostRecord) (k : SourceId) :
    (s.setHost h x).route k = s.route k := rfl
@[simp] theorem deliv_setHost (s : State) (h : HostId) (x : HostRecord) (k : HostId) :
    (s.setHost h x).deliv k = s.deliv k := rfl
@[simp] theorem postUnit_setHost (s : State) (h : HostId) (x : HostRecord) (k : HostId) :
    (s.setHost h x).postUnit k = s.postUnit k := rfl
@[simp] theorem line_setHost (s : State) (h : HostId) (x : HostRecord) (k : LineId) :
    (s.setHost h x).line k = s.line k := rfl
@[simp] theorem port_setHost (s : State) (h : HostId) (x : HostRecord) (k : HostId) :
    (s.setHost h x).port k = s.port k := rfl
@[simp] theorem slot_setHostState (s : State) (h : HostId) (x : HostState) (k : SlotId) :
    (s.setHostState h x).slot k = s.slot k := rfl
@[simp] theorem route_setHostState (s : State) (h : HostId) (x : HostState) (k : SourceId) :
    (s.setHostState h x).route k = s.route k := rfl
@[simp] theorem deliv_setHostState (s : State) (h : HostId) (x : HostState) (k : HostId) :
    (s.setHostState h x).deliv k = s.deliv k := rfl
@[simp] theorem postUnit_setHostState (s : State) (h : HostId) (x : HostState) (k : HostId) :
    (s.setHostState h x).postUnit k = s.postUnit k := rfl
@[simp] theorem line_setHostState (s : State) (h : HostId) (x : HostState) (k : LineId) :
    (s.setHostState h x).line k = s.line k := rfl
@[simp] theorem port_setHostState (s : State) (h : HostId) (x : HostState) (k : HostId) :
    (s.setHostState h x).port k = s.port k := rfl
@[simp] theorem slot_setDeliv (s : State) (h : HostId) (d : Delivery) (k : SlotId) :
    (s.setDeliv h d).slot k = s.slot k := rfl
@[simp] theorem route_setDeliv (s : State) (h : HostId) (d : Delivery) (k : SourceId) :
    (s.setDeliv h d).route k = s.route k := rfl
@[simp] theorem host_setDeliv (s : State) (h : HostId) (d : Delivery) (k : HostId) :
    (s.setDeliv h d).host k = s.host k := rfl
@[simp] theorem postUnit_setDeliv (s : State) (h : HostId) (d : Delivery) (k : HostId) :
    (s.setDeliv h d).postUnit k = s.postUnit k := rfl
@[simp] theorem line_setDeliv (s : State) (h : HostId) (d : Delivery) (k : LineId) :
    (s.setDeliv h d).line k = s.line k := rfl
@[simp] theorem port_setDeliv (s : State) (h : HostId) (d : Delivery) (k : HostId) :
    (s.setDeliv h d).port k = s.port k := rfl
@[simp] theorem slot_enqueue (s : State) (h : HostId) (i : SlotId) (k : SlotId) :
    (s.enqueue h i).slot k = s.slot k := rfl
@[simp] theorem route_enqueue (s : State) (h : HostId) (i : SlotId) (k : SourceId) :
    (s.enqueue h i).route k = s.route k := rfl
@[simp] theorem host_enqueue (s : State) (h : HostId) (i : SlotId) (k : HostId) :
    (s.enqueue h i).host k = s.host k := rfl
@[simp] theorem postUnit_enqueue (s : State) (h : HostId) (i : SlotId) (k : HostId) :
    (s.enqueue h i).postUnit k = s.postUnit k := rfl
@[simp] theorem line_enqueue (s : State) (h : HostId) (i : SlotId) (k : LineId) :
    (s.enqueue h i).line k = s.line k := rfl
@[simp] theorem port_enqueue (s : State) (h : HostId) (i : SlotId) (k : HostId) :
    (s.enqueue h i).port k = s.port k := rfl
@[simp] theorem slot_dequeue (s : State) (h : HostId) (i : SlotId) (k : SlotId) :
    (s.dequeue h i).slot k = s.slot k := rfl
@[simp] theorem route_dequeue (s : State) (h : HostId) (i : SlotId) (k : SourceId) :
    (s.dequeue h i).route k = s.route k := rfl
@[simp] theorem host_dequeue (s : State) (h : HostId) (i : SlotId) (k : HostId) :
    (s.dequeue h i).host k = s.host k := rfl
@[simp] theorem postUnit_dequeue (s : State) (h : HostId) (i : SlotId) (k : HostId) :
    (s.dequeue h i).postUnit k = s.postUnit k := rfl
@[simp] theorem line_dequeue (s : State) (h : HostId) (i : SlotId) (k : LineId) :
    (s.dequeue h i).line k = s.line k := rfl
@[simp] theorem port_dequeue (s : State) (h : HostId) (i : SlotId) (k : HostId) :
    (s.dequeue h i).port k = s.port k := rfl
@[simp] theorem slot_pushStack (s : State) (h : HostId) (i : SlotId) (k : SlotId) :
    (s.pushStack h i).slot k = s.slot k := rfl
@[simp] theorem route_pushStack (s : State) (h : HostId) (i : SlotId) (k : SourceId) :
    (s.pushStack h i).route k = s.route k := rfl
@[simp] theorem host_pushStack (s : State) (h : HostId) (i : SlotId) (k : HostId) :
    (s.pushStack h i).host k = s.host k := rfl
@[simp] theorem postUnit_pushStack (s : State) (h : HostId) (i : SlotId) (k : HostId) :
    (s.pushStack h i).postUnit k = s.postUnit k := rfl
@[simp] theorem line_pushStack (s : State) (h : HostId) (i : SlotId) (k : LineId) :
    (s.pushStack h i).line k = s.line k := rfl
@[simp] theorem port_pushStack (s : State) (h : HostId) (i : SlotId) (k : HostId) :
    (s.pushStack h i).port k = s.port k := rfl
@[simp] theorem slot_popStack (s : State) (h : HostId) (k : SlotId) :
    (s.popStack h).slot k = s.slot k := rfl
@[simp] theorem route_popStack (s : State) (h : HostId) (k : SourceId) :
    (s.popStack h).route k = s.route k := rfl
@[simp] theorem host_popStack (s : State) (h : HostId) (k : HostId) :
    (s.popStack h).host k = s.host k := rfl
@[simp] theorem postUnit_popStack (s : State) (h : HostId) (k : HostId) :
    (s.popStack h).postUnit k = s.postUnit k := rfl
@[simp] theorem line_popStack (s : State) (h : HostId) (k : LineId) :
    (s.popStack h).line k = s.line k := rfl
@[simp] theorem port_popStack (s : State) (h : HostId) (k : HostId) :
    (s.popStack h).port k = s.port k := rfl
@[simp] theorem slot_clearDelivery (s : State) (h : HostId) (k : SlotId) :
    (s.clearDelivery h).slot k = s.slot k := rfl
@[simp] theorem route_clearDelivery (s : State) (h : HostId) (k : SourceId) :
    (s.clearDelivery h).route k = s.route k := rfl
@[simp] theorem host_clearDelivery (s : State) (h : HostId) (k : HostId) :
    (s.clearDelivery h).host k = s.host k := rfl
@[simp] theorem postUnit_clearDelivery (s : State) (h : HostId) (k : HostId) :
    (s.clearDelivery h).postUnit k = s.postUnit k := rfl
@[simp] theorem line_clearDelivery (s : State) (h : HostId) (k : LineId) :
    (s.clearDelivery h).line k = s.line k := rfl
@[simp] theorem port_clearDelivery (s : State) (h : HostId) (k : HostId) :
    (s.clearDelivery h).port k = s.port k := rfl
@[simp] theorem slot_setPostUnit (s : State) (h : HostId) (p : PostUnit) (k : SlotId) :
    (s.setPostUnit h p).slot k = s.slot k := rfl
@[simp] theorem route_setPostUnit (s : State) (h : HostId) (p : PostUnit) (k : SourceId) :
    (s.setPostUnit h p).route k = s.route k := rfl
@[simp] theorem host_setPostUnit (s : State) (h : HostId) (p : PostUnit) (k : HostId) :
    (s.setPostUnit h p).host k = s.host k := rfl
@[simp] theorem deliv_setPostUnit (s : State) (h : HostId) (p : PostUnit) (k : HostId) :
    (s.setPostUnit h p).deliv k = s.deliv k := rfl
@[simp] theorem line_setPostUnit (s : State) (h : HostId) (p : PostUnit) (k : LineId) :
    (s.setPostUnit h p).line k = s.line k := rfl
@[simp] theorem port_setPostUnit (s : State) (h : HostId) (p : PostUnit) (k : HostId) :
    (s.setPostUnit h p).port k = s.port k := rfl
@[simp] theorem slot_setLine (s : State) (n : LineId) (l : Line) (k : SlotId) :
    (s.setLine n l).slot k = s.slot k := rfl
@[simp] theorem route_setLine (s : State) (n : LineId) (l : Line) (k : SourceId) :
    (s.setLine n l).route k = s.route k := rfl
@[simp] theorem host_setLine (s : State) (n : LineId) (l : Line) (k : HostId) :
    (s.setLine n l).host k = s.host k := rfl
@[simp] theorem deliv_setLine (s : State) (n : LineId) (l : Line) (k : HostId) :
    (s.setLine n l).deliv k = s.deliv k := rfl
@[simp] theorem postUnit_setLine (s : State) (n : LineId) (l : Line) (k : HostId) :
    (s.setLine n l).postUnit k = s.postUnit k := rfl
@[simp] theorem port_setLine (s : State) (n : LineId) (l : Line) (k : HostId) :
    (s.setLine n l).port k = s.port k := rfl
@[simp] theorem slot_setPort (s : State) (p : HostId) (x : Port) (k : SlotId) :
    (s.setPort p x).slot k = s.slot k := rfl
@[simp] theorem route_setPort (s : State) (p : HostId) (x : Port) (k : SourceId) :
    (s.setPort p x).route k = s.route k := rfl
@[simp] theorem host_setPort (s : State) (p : HostId) (x : Port) (k : HostId) :
    (s.setPort p x).host k = s.host k := rfl
@[simp] theorem deliv_setPort (s : State) (p : HostId) (x : Port) (k : HostId) :
    (s.setPort p x).deliv k = s.deliv k := rfl
@[simp] theorem postUnit_setPort (s : State) (p : HostId) (x : Port) (k : HostId) :
    (s.setPort p x).postUnit k = s.postUnit k := rfl
@[simp] theorem line_setPort (s : State) (p : HostId) (x : Port) (k : LineId) :
    (s.setPort p x).line k = s.line k := rfl
@[simp] theorem route_countBirth (s : State) (k : SourceId) :
    s.countBirth.route k = s.route k := rfl
@[simp] theorem host_countBirth (s : State) (k : HostId) :
    s.countBirth.host k = s.host k := rfl
@[simp] theorem deliv_countBirth (s : State) (k : HostId) :
    s.countBirth.deliv k = s.deliv k := rfl
@[simp] theorem postUnit_countBirth (s : State) (k : HostId) :
    s.countBirth.postUnit k = s.postUnit k := rfl
@[simp] theorem line_countBirth (s : State) (k : LineId) :
    s.countBirth.line k = s.line k := rfl
@[simp] theorem port_countBirth (s : State) (k : HostId) :
    s.countBirth.port k = s.port k := rfl
@[simp] theorem route_mapCopies (s : State) (h : HostId) (f : Copy → Copy) (k : SourceId) :
    (s.mapCopies h f).route k = s.route k := rfl
@[simp] theorem host_mapCopies (s : State) (h : HostId) (f : Copy → Copy) (k : HostId) :
    (s.mapCopies h f).host k = s.host k := rfl
@[simp] theorem deliv_mapCopies (s : State) (h : HostId) (f : Copy → Copy) (k : HostId) :
    (s.mapCopies h f).deliv k = s.deliv k := rfl
@[simp] theorem postUnit_mapCopies (s : State) (h : HostId) (f : Copy → Copy) (k : HostId) :
    (s.mapCopies h f).postUnit k = s.postUnit k := rfl
@[simp] theorem line_mapCopies (s : State) (h : HostId) (f : Copy → Copy) (k : LineId) :
    (s.mapCopies h f).line k = s.line k := rfl
@[simp] theorem port_mapCopies (s : State) (h : HostId) (f : Copy → Copy) (k : HostId) :
    (s.mapCopies h f).port k = s.port k := rfl
@[simp] theorem slot_dropWaiting (s : State) (n : SourceId) (k : SlotId) :
    (s.dropWaiting n).slot k = s.slot k := rfl
@[simp] theorem route_dropWaiting (s : State) (n : SourceId) (k : SourceId) :
    (s.dropWaiting n).route k = s.route k := rfl
@[simp] theorem host_dropWaiting (s : State) (n : SourceId) (k : HostId) :
    (s.dropWaiting n).host k = s.host k := rfl
@[simp] theorem deliv_dropWaiting (s : State) (n : SourceId) (k : HostId) :
    (s.dropWaiting n).deliv k = s.deliv k := rfl
@[simp] theorem postUnit_dropWaiting (s : State) (n : SourceId) (k : HostId) :
    (s.dropWaiting n).postUnit k = s.postUnit k := rfl
@[simp] theorem line_dropWaiting (s : State) (n : SourceId) (k : LineId) :
    (s.dropWaiting n).line k = s.line k := rfl
@[simp] theorem port_dropWaiting (s : State) (n : SourceId) (k : HostId) :
    (s.dropWaiting n).port k = s.port k := rfl
@[simp] theorem slot_countWaiting (s : State) (ev : RawEvent) (k : SlotId) :
    (s.countWaiting ev).slot k = s.slot k := rfl
@[simp] theorem route_countWaiting (s : State) (ev : RawEvent) (k : SourceId) :
    (s.countWaiting ev).route k = s.route k := rfl
@[simp] theorem host_countWaiting (s : State) (ev : RawEvent) (k : HostId) :
    (s.countWaiting ev).host k = s.host k := rfl
@[simp] theorem deliv_countWaiting (s : State) (ev : RawEvent) (k : HostId) :
    (s.countWaiting ev).deliv k = s.deliv k := rfl
@[simp] theorem postUnit_countWaiting (s : State) (ev : RawEvent) (k : HostId) :
    (s.countWaiting ev).postUnit k = s.postUnit k := rfl
@[simp] theorem line_countWaiting (s : State) (ev : RawEvent) (k : LineId) :
    (s.countWaiting ev).line k = s.line k := rfl
@[simp] theorem port_countWaiting (s : State) (ev : RawEvent) (k : HostId) :
    (s.countWaiting ev).port k = s.port k := rfl
@[simp] theorem slot_drivesZero (s : State) (p : HostId) (n : Nat) (k : SlotId) :
    (s.drivesZero p n).slot k = s.slot k := rfl
@[simp] theorem route_drivesZero (s : State) (p : HostId) (n : Nat) (k : SourceId) :
    (s.drivesZero p n).route k = s.route k := rfl
@[simp] theorem host_drivesZero (s : State) (p : HostId) (n : Nat) (k : HostId) :
    (s.drivesZero p n).host k = s.host k := rfl
@[simp] theorem deliv_drivesZero (s : State) (p : HostId) (n : Nat) (k : HostId) :
    (s.drivesZero p n).deliv k = s.deliv k := rfl
@[simp] theorem postUnit_drivesZero (s : State) (p : HostId) (n : Nat) (k : HostId) :
    (s.drivesZero p n).postUnit k = s.postUnit k := rfl
@[simp] theorem line_drivesZero (s : State) (p : HostId) (n : Nat) (k : LineId) :
    (s.drivesZero p n).line k = s.line k := rfl
@[simp] theorem slot_placeAnswer (s : State) (p : HostId) (r : Response) (k : SlotId) :
    (s.placeAnswer p r).slot k = s.slot k := rfl
@[simp] theorem route_placeAnswer (s : State) (p : HostId) (r : Response) (k : SourceId) :
    (s.placeAnswer p r).route k = s.route k := rfl
@[simp] theorem host_placeAnswer (s : State) (p : HostId) (r : Response) (k : HostId) :
    (s.placeAnswer p r).host k = s.host k := rfl
@[simp] theorem deliv_placeAnswer (s : State) (p : HostId) (r : Response) (k : HostId) :
    (s.placeAnswer p r).deliv k = s.deliv k := rfl
@[simp] theorem postUnit_placeAnswer (s : State) (p : HostId) (r : Response) (k : HostId) :
    (s.placeAnswer p r).postUnit k = s.postUnit k := rfl
@[simp] theorem line_placeAnswer (s : State) (p : HostId) (r : Response) (k : LineId) :
    (s.placeAnswer p r).line k = s.line k := rfl
@[simp] theorem slot_dropRequest (s : State) (p : HostId) (k : SlotId) :
    (s.dropRequest p).slot k = s.slot k := rfl
@[simp] theorem route_dropRequest (s : State) (p : HostId) (k : SourceId) :
    (s.dropRequest p).route k = s.route k := rfl
@[simp] theorem host_dropRequest (s : State) (p : HostId) (k : HostId) :
    (s.dropRequest p).host k = s.host k := rfl
@[simp] theorem deliv_dropRequest (s : State) (p : HostId) (k : HostId) :
    (s.dropRequest p).deliv k = s.deliv k := rfl
@[simp] theorem postUnit_dropRequest (s : State) (p : HostId) (k : HostId) :
    (s.dropRequest p).postUnit k = s.postUnit k := rfl
@[simp] theorem line_dropRequest (s : State) (p : HostId) (k : LineId) :
    (s.dropRequest p).line k = s.line k := rfl
@[simp] theorem slot_ignoreTransaction (s : State) (p : HostId) (k : SlotId) :
    (s.ignoreTransaction p).slot k = s.slot k := rfl
@[simp] theorem route_ignoreTransaction (s : State) (p : HostId) (k : SourceId) :
    (s.ignoreTransaction p).route k = s.route k := rfl
@[simp] theorem host_ignoreTransaction (s : State) (p : HostId) (k : HostId) :
    (s.ignoreTransaction p).host k = s.host k := rfl
@[simp] theorem deliv_ignoreTransaction (s : State) (p : HostId) (k : HostId) :
    (s.ignoreTransaction p).deliv k = s.deliv k := rfl
@[simp] theorem postUnit_ignoreTransaction (s : State) (p : HostId) (k : HostId) :
    (s.ignoreTransaction p).postUnit k = s.postUnit k := rfl
@[simp] theorem line_ignoreTransaction (s : State) (p : HostId) (k : LineId) :
    (s.ignoreTransaction p).line k = s.line k := rfl
@[simp] theorem slot_answerAtOnce (s : State) (p : HostId) (c : ResultCode) (k : SlotId) :
    (s.answerAtOnce p c).slot k = s.slot k := rfl
@[simp] theorem route_answerAtOnce (s : State) (p : HostId) (c : ResultCode) (k : SourceId) :
    (s.answerAtOnce p c).route k = s.route k := rfl
@[simp] theorem host_answerAtOnce (s : State) (p : HostId) (c : ResultCode) (k : HostId) :
    (s.answerAtOnce p c).host k = s.host k := rfl
@[simp] theorem deliv_answerAtOnce (s : State) (p : HostId) (c : ResultCode) (k : HostId) :
    (s.answerAtOnce p c).deliv k = s.deliv k := rfl
@[simp] theorem postUnit_answerAtOnce (s : State) (p : HostId) (c : ResultCode) (k : HostId) :
    (s.answerAtOnce p c).postUnit k = s.postUnit k := rfl
@[simp] theorem line_answerAtOnce (s : State) (p : HostId) (c : ResultCode) (k : LineId) :
    (s.answerAtOnce p c).line k = s.line k := rfl
@[simp] theorem slot_fetchOn (s : State) (p : HostId) (n : Nat) (k : SlotId) :
    (s.fetchOn p n).slot k = s.slot k := rfl
@[simp] theorem route_fetchOn (s : State) (p : HostId) (n : Nat) (k : SourceId) :
    (s.fetchOn p n).route k = s.route k := rfl
@[simp] theorem host_fetchOn (s : State) (p : HostId) (n : Nat) (k : HostId) :
    (s.fetchOn p n).host k = s.host k := rfl
@[simp] theorem deliv_fetchOn (s : State) (p : HostId) (n : Nat) (k : HostId) :
    (s.fetchOn p n).deliv k = s.deliv k := rfl
@[simp] theorem postUnit_fetchOn (s : State) (p : HostId) (n : Nat) (k : HostId) :
    (s.fetchOn p n).postUnit k = s.postUnit k := rfl
@[simp] theorem line_fetchOn (s : State) (p : HostId) (n : Nat) (k : LineId) :
    (s.fetchOn p n).line k = s.line k := rfl
@[simp] theorem slot_oscillatorCycle (s : State) (k : SlotId) :
    s.oscillatorCycle.slot k = s.slot k := rfl
@[simp] theorem route_oscillatorCycle (s : State) (k : SourceId) :
    s.oscillatorCycle.route k = s.route k := rfl
@[simp] theorem host_oscillatorCycle (s : State) (k : HostId) :
    s.oscillatorCycle.host k = s.host k := rfl
@[simp] theorem deliv_oscillatorCycle (s : State) (k : HostId) :
    s.oscillatorCycle.deliv k = s.deliv k := rfl
@[simp] theorem postUnit_oscillatorCycle (s : State) (k : HostId) :
    s.oscillatorCycle.postUnit k = s.postUnit k := rfl
@[simp] theorem line_oscillatorCycle (s : State) (k : LineId) :
    s.oscillatorCycle.line k = s.line k := rfl
@[simp] theorem port_oscillatorCycle (s : State) (k : HostId) :
    s.oscillatorCycle.port k = s.port k := rfl
@[simp] theorem slot_driveLines (s : State) (k : SlotId) : s.driveLines.slot k = s.slot k := rfl
@[simp] theorem route_driveLines (s : State) (k : SourceId) : s.driveLines.route k = s.route k := rfl
@[simp] theorem postUnit_driveLines (s : State) (k : HostId) : s.driveLines.postUnit k = s.postUnit k := rfl
@[simp] theorem line_driveLines (s : State) (k : LineId) : s.driveLines.line k = s.line k := rfl
@[simp] theorem port_driveLines (s : State) (k : HostId) : s.driveLines.port k = s.port k := rfl

@[simp] theorem deliv_driveLines (s : State) (h : HostId) :
    s.driveLines.deliv h = { s.deliv h with attnLine := s.attnCondition h } := by
  simp [State.deliv, State.driveLines]

@[simp] theorem host_driveLines (s : State) (h : HostId) :
    s.driveLines.host h = { s.host h with wakeLine := s.wakeCondition h } := by
  simp [State.host, State.driveLines]

@[simp] theorem record?_driveLines (s : State) (i : SlotId) : s.driveLines.record? i = s.record? i := rfl

@[simp] theorem copy?_driveLines (s : State) (i : SlotId) (h : HostId) : s.driveLines.copy? i h = s.copy? i h := rfl

@[simp] theorem record?_setRecord_same (s : State) (i : SlotId) (r : Record) : (s.setRecord i r).record? i = some r := by
  simp [State.record?, State.setRecord]

theorem record?_setRecord_other (s : State) (i j : SlotId) (r : Record) (h : j ≠ i) :
    (s.setRecord i r).record? j = s.record? j := by
  simp [State.record?, State.setRecord, slot_setSlot_other _ _ _ _ h]

theorem record?_setRecord (s : State) (i j : SlotId) (r : Record) :
    (s.setRecord i r).record? j = if j = i then some r else s.record? j := by
  split
  · next h => subst h; simp
  · next h => exact record?_setRecord_other s i j r h

@[simp] theorem copy_setCopy_same (r : Record) (h : HostId) (c : Copy) : (r.setCopy h c).copy h = some c := by
  simp [Record.copy, Record.setCopy]

theorem copy_setCopy_other (r : Record) (h k : HostId) (c : Copy) (hk : k ≠ h) :
    (r.setCopy h c).copy k = r.copy k := by
  simp only [Record.copy, Record.setCopy]
  exact vget_vset_other _ _ _ _ hk

/-- Writing a record changes no slot's generation. -/
@[simp] theorem generation_setRecord (s : State) (i j : SlotId) (r : Record) :
    ((s.setRecord i r).slot j).generation = (s.slot j).generation := by
  by_cases h : j = i
  · subst h; simp [State.setRecord]
  · simp [State.setRecord, slot_setSlot_other _ _ _ _ h]

/-- Only the record of the changed slot changes. -/
theorem record?_modifyRecord (s : State) (i j : SlotId) (f : Record → Record) :
    (s.modifyRecord i f).record? j = if j = i then (s.record? i).map f else s.record? j := by
  unfold State.modifyRecord
  cases hr : s.record? i with
  | none => split <;> simp_all
  | some r => simpa using record?_setRecord s i j (f r)

theorem deliv_enqueue (s : State) (h k : HostId) (i : SlotId) :
    (s.enqueue h i).deliv k =
      if k = h then { s.deliv h with queue := insertByPriority s.priorityOf i (s.deliv h).queue } else s.deliv k :=
  deliv_setDeliv _ _ _ _

theorem deliv_dequeue (s : State) (h k : HostId) (i : SlotId) :
    (s.dequeue h i).deliv k =
      if k = h then { s.deliv h with queue := (s.deliv h).queue.filter (fun x => x != i) } else s.deliv k :=
  deliv_setDeliv _ _ _ _

theorem deliv_popStack (s : State) (h k : HostId) :
    (s.popStack h).deliv k =
      if k = h then { s.deliv h with
        stack := (s.deliv h).stack.tail, runningLevel := s.levelOf (s.deliv h).stack.tail } else s.deliv k :=
  deliv_setDeliv _ _ _ _

theorem deliv_clearDelivery (s : State) (h k : HostId) :
    (s.clearDelivery h).deliv k =
      if k = h then { s.deliv h with queue := [], stack := [], runningLevel := 0 } else s.deliv k :=
  deliv_setDeliv _ _ _ _

end Sys2Proof.Machine
end

