-- ==== Sys2Proof/Laws/Kept.lean ====
section
/-! SUPPORT. What the shared operations of admission, retirement, escalation and cleanup never touch: the lines, the ports, the clock, the
administrator, the queue of commands and the writable fields of every route. One lemma an operation, to be cited in
place of unfolding it. -/

namespace Sys2Proof.Machine

/-- `t` has the lines, ports, clock, administrator, queue of commands and route configurations of `s`. -/
structure Kept (s t : State) : Prop where
  lines : t.lines = s.lines
  ports : t.ports = s.ports
  clock : t.clock = s.clock
  administrator : t.administrator = s.administrator
  pending : t.pending = s.pending
  config : ∀ n, (t.route n).config = (s.route n).config

theorem Kept.refl (s : State) : Kept s s := ⟨rfl, rfl, rfl, rfl, rfl, fun _ => rfl⟩

theorem Kept.trans {s t u : State} (h : Kept s t) (k : Kept t u) : Kept s u :=
  ⟨k.lines.trans h.lines, k.ports.trans h.ports, k.clock.trans h.clock, k.administrator.trans h.administrator,
    k.pending.trans h.pending, fun n => (k.config n).trans (h.config n)⟩

/-- A fold of steps that each keep is kept. -/
theorem Kept.foldl {α : Type} (f : State → α → State) (hf : ∀ s x, Kept s (f s x)) (l : List α) (s : State) :
    Kept s (l.foldl f s) := by
  induction l generalizing s with
  | nil => exact Kept.refl s
  | cons x xs ih => exact (hf s x).trans (ih _)

theorem setSlot_kept (s : State) (i : SlotId) (x : Slot) : Kept s (s.setSlot i x) :=
  ⟨rfl, rfl, rfl, rfl, rfl, fun _ => rfl⟩

theorem setRecord_kept (s : State) (i : SlotId) (r : Record) : Kept s (s.setRecord i r) :=
  ⟨rfl, rfl, rfl, rfl, rfl, fun _ => rfl⟩

theorem modifyRecord_kept (s : State) (i : SlotId) (f : Record → Record) : Kept s (s.modifyRecord i f) := by
  unfold State.modifyRecord
  split
  · exact Kept.refl s
  · exact setRecord_kept s i _

theorem setCopy_kept (s : State) (i : SlotId) (h : HostId) (c : Copy) : Kept s (s.setCopy i h c) :=
  modifyRecord_kept s i _

theorem setHost_kept (s : State) (h : HostId) (x : HostRecord) : Kept s (s.setHost h x) :=
  ⟨rfl, rfl, rfl, rfl, rfl, fun _ => rfl⟩

theorem setHostState_kept (s : State) (h : HostId) (x : HostState) : Kept s (s.setHostState h x) :=
  setHost_kept s h _

theorem setDeliv_kept (s : State) (h : HostId) (d : Delivery) : Kept s (s.setDeliv h d) :=
  ⟨rfl, rfl, rfl, rfl, rfl, fun _ => rfl⟩

theorem setPostUnit_kept (s : State) (h : HostId) (p : PostUnit) : Kept s (s.setPostUnit h p) :=
  ⟨rfl, rfl, rfl, rfl, rfl, fun _ => rfl⟩

theorem enqueue_kept (s : State) (h : HostId) (i : SlotId) : Kept s (s.enqueue h i) := setDeliv_kept s h _

theorem dequeue_kept (s : State) (h : HostId) (i : SlotId) : Kept s (s.dequeue h i) := setDeliv_kept s h _

theorem pushStack_kept (s : State) (h : HostId) (i : SlotId) : Kept s (s.pushStack h i) :=
  (dequeue_kept s h i).trans (setDeliv_kept _ h _)

theorem popStack_kept (s : State) (h : HostId) : Kept s (s.popStack h) := setDeliv_kept s h _

theorem clearDelivery_kept (s : State) (h : HostId) : Kept s (s.clearDelivery h) := setDeliv_kept s h _

theorem countBirth_kept (s : State) : Kept s s.countBirth := ⟨rfl, rfl, rfl, rfl, rfl, fun _ => rfl⟩

theorem mapCopies_kept (s : State) (h : HostId) (f : Copy → Copy) : Kept s (s.mapCopies h f) :=
  ⟨rfl, rfl, rfl, rfl, rfl, fun _ => rfl⟩

theorem driveLines_kept (s : State) : Kept s s.driveLines := ⟨rfl, rfl, rfl, rfl, rfl, fun _ => rfl⟩

theorem dropWaiting_kept (s : State) (n : SourceId) : Kept s (s.dropWaiting n) :=
  ⟨rfl, rfl, rfl, rfl, rfl, fun _ => rfl⟩

theorem waitList_kept (s : State) (l : List WaitEntry) : Kept s { s with waitList := l } :=
  ⟨rfl, rfl, rfl, rfl, rfl, fun _ => rfl⟩

theorem countWaiting_kept (s : State) (ev : RawEvent) : Kept s (s.countWaiting ev) :=
  ⟨rfl, rfl, rfl, rfl, rfl, fun _ => rfl⟩

/-- A route write that leaves the route's configuration keeps. -/
theorem setRoute_kept (s : State) (n : SourceId) (x : Route) (h : x.config = (s.route n).config) :
    Kept s (s.setRoute n x) := by
  refine ⟨rfl, rfl, rfl, rfl, rfl, fun k => ?_⟩
  rw [route_setRoute]
  split
  · next hk => rw [h, hk]
  · rfl

theorem setLastOutcome_kept (s : State) (n : SourceId) (o : LastOutcome) : Kept s (s.setLastOutcome n o) :=
  setRoute_kept s n _ rfl

theorem countRoute_kept (s : State) (n : SourceId) (f : Nat → Nat) : Kept s (s.countRoute n f) :=
  setRoute_kept s n _ rfl

theorem countClass_kept (s : State) (n : SourceId) (f : Nat → Nat) : Kept s (s.countClass n f) := by
  unfold State.countClass
  split <;> exact ⟨rfl, rfl, rfl, rfl, rfl, fun _ => rfl⟩

theorem wakeFor_kept (s : State) (h : HostId) (i : SlotId) : Kept s (s.wakeFor h i) := by
  unfold State.wakeFor
  split
  · exact setHost_kept s h _
  · exact Kept.refl s

theorem createRecord_kept (s : State) (i : SlotId) (r : Record) (hosts : List HostId) (esc : Bool) :
    Kept s (s.createRecord i r hosts esc) := by
  unfold State.createRecord
  exact (((countClass_kept s _ _).trans (countBirth_kept _)).trans (setRecord_kept _ _ _)).trans (countRoute_kept _ _ _)
    |>.trans (Kept.foldl _ (fun t h => enqueue_kept t h i) hosts _)
    |>.trans (Kept.foldl _ (fun t h => wakeFor_kept t h i) hosts _)

/-! ## Admission and handoff -/

theorem coalesce_kept (s : State) (n : SourceId) : Kept s (s.coalesce n) := by
  unfold State.coalesce
  split
  · exact Kept.refl s
  · exact modifyRecord_kept s _ _

theorem joinWaitList_kept (s : State) (ev : RawEvent) : Kept s (s.joinWaitList ev) := by
  unfold State.joinWaitList
  split
  · exact Kept.refl s
  · exact waitList_kept s _

theorem admitNew_kept (s : State) (ev : RawEvent) : Kept s (s.admitNew ev) := by
  unfold State.admitNew
  split
  · exact setLastOutcome_kept s _ _
  · split
    · exact joinWaitList_kept s ev
    · exact createRecord_kept s _ _ _ _

theorem admitClosed_kept (s : State) (ev : RawEvent) : Kept s (s.admitClosed ev) := by
  unfold State.admitClosed
  split
  · exact countWaiting_kept s ev
  · split
    · exact coalesce_kept s _
    · exact admitNew_kept s ev

theorem admitEnabled_kept (s : State) (ev : RawEvent) : Kept s (s.admitEnabled ev) := by
  unfold State.admitEnabled
  split
  · split
    · exact modifyRecord_kept s _ _
    · exact admitClosed_kept s _
  · exact admitClosed_kept s _

theorem admitOne_kept (s : State) (ev : RawEvent) : Kept s (s.admitOne ev) := by
  unfold State.admitOne
  split
  · exact admitEnabled_kept s ev
  · exact Kept.refl s

theorem admission_kept (s : State) (ev : RawEvent) : Kept s (s.admission ev) := by
  unfold State.admission
  dsimp only
  split
  · exact (admitOne_kept s ev).trans (admitOne_kept _ _)
  · exact admitOne_kept s ev

theorem handoffRounds_kept (k : Nat) (s : State) : Kept s (handoffRounds k s) := by
  induction k generalizing s with
  | zero => exact Kept.refl s
  | succ k ih =>
    unfold handoffRounds
    split
    · exact Kept.refl s
    · split
      · exact (waitList_kept s _).trans (ih _)
      · split
        · exact ((setLastOutcome_kept s _ _).trans (waitList_kept _ _)).trans (ih _)
        · split
          · exact Kept.refl s
          · exact (createRecord_kept s _ _ _ _).trans (waitList_kept _ _)

theorem handoff_kept (s : State) : Kept s s.handoff := handoffRounds_kept _ s

/-! ## Retirement, withdrawal, escalation, cleanup -/

theorem levelRecheck_kept (s : State) (n : LineId) : Kept s (s.levelRecheck n) := by
  unfold State.levelRecheck
  split
  · exact admission_kept s _
  · exact Kept.refl s

theorem closeRoute_kept (s : State) (r : Record) : Kept s (s.closeRoute r) :=
  (countRoute_kept s _ _).trans (setLastOutcome_kept _ _ _)

theorem giveReceipt_kept (s : State) (i : SlotId) (r : Record) : Kept s (s.giveReceipt i r) := by
  unfold State.giveReceipt
  split
  · exact setPostUnit_kept s _ _
  · exact Kept.refl s

theorem freeSlot_kept (s : State) (i : SlotId) (r : Record) : Kept s (s.freeSlot i r) :=
  (setSlot_kept s i _).trans (countClass_kept _ _ _)

theorem closeRecord_kept (s : State) (i : SlotId) (r : Record) : Kept s (s.closeRecord i r) :=
  ((closeRoute_kept s r).trans (giveReceipt_kept _ i r)).trans (freeSlot_kept _ i r)

theorem offerFreed_kept (s : State) (r : Record) : Kept s (s.offerFreed r) := by
  unfold State.offerFreed
  split
  · exact Kept.refl s
  · exact handoff_kept s

theorem recheckLine_kept (s : State) (r : Record) : Kept s (s.recheckLine r) := by
  unfold State.recheckLine
  split
  · exact Kept.refl s
  · exact levelRecheck_kept s _

theorem retire_kept (s : State) (i : SlotId) (r : Record) : Kept s (s.retire i r) :=
  ((closeRecord_kept s i r).trans (offerFreed_kept _ r)).trans (recheckLine_kept _ r)

theorem judge_kept (s : State) (i : SlotId) : Kept s (s.judge i) := by
  unfold State.judge
  split
  · exact Kept.refl s
  · split
    · exact retire_kept s i _
    · exact Kept.refl s

theorem withdrawCopy_kept (s : State) (i : SlotId) (h : HostId) : Kept s (s.withdrawCopy i h) := by
  unfold State.withdrawCopy
  split
  · exact Kept.refl s
  · split
    · exact (setCopy_kept s i h _).trans (dequeue_kept _ h i)
    · exact (setCopy_kept s i h _).trans (dequeue_kept _ h i)
    · exact setCopy_kept s i h _
    · exact setCopy_kept s i h _
    · exact Kept.refl s

theorem withdraw_kept (s : State) (i : SlotId) : Kept s (s.withdraw i) :=
  Kept.foldl _ (fun t h => withdrawCopy_kept t i h) allHosts s

theorem markPurged_kept (s : State) (i : SlotId) : Kept s (s.markPurged i) := modifyRecord_kept s i _

theorem escalate_kept (s : State) (i : SlotId) (trigger : HostId) : Kept s (s.escalate i trigger) := by
  unfold State.escalate
  split
  · exact Kept.refl s
  · split
    · exact Kept.refl s
    · split
      · exact ((setRecord_kept s i _).trans (enqueue_kept _ _ i)).trans (wakeFor_kept _ _ i)
      · exact Kept.refl s

theorem voidReservations_kept (s : State) (h : HostId) : Kept s (s.voidReservations h) :=
  (Kept.foldl _ (fun t i => modifyRecord_kept t i _) allSlots s).trans (setPostUnit_kept _ h _)

theorem cleanupCopy_kept (s : State) (h : HostId) (i : SlotId) : Kept s (s.cleanupCopy h i) := by
  unfold State.cleanupCopy
  split
  · exact Kept.refl s
  · split
    · exact Kept.refl s
    · split
      · exact (setCopy_kept s i h _).trans (judge_kept _ i)
      · exact ((setCopy_kept s i h _).trans (escalate_kept _ i h)).trans (judge_kept _ i)

theorem cleanup_kept (s : State) (h : HostId) : Kept s (s.cleanup h) :=
  ((voidReservations_kept s h).trans (Kept.foldl _ (fun t i => cleanupCopy_kept t h i) allSlots _)).trans
    (clearDelivery_kept _ h)

theorem loseHost_kept (s : State) (h : HostId) : Kept s (s.loseHost h) :=
  ((setHost_kept s h _).trans (cleanup_kept _ h)).trans (admission_kept _ _)

theorem returnToRun_kept (s : State) (h : HostId) : Kept s (s.returnToRun h) := by
  unfold State.returnToRun
  split
  · exact (setHost_kept s h _).trans (mapCopies_kept _ h _)
  · exact (setHost_kept s h _).trans (mapCopies_kept _ h _)
  · exact Kept.refl s

end Sys2Proof.Machine
end

