-- ==== Sys2Proof/Laws/Effects.lean ====
section
/-! SUPPORT. What the shared operations do, one lemma an operation, to be cited in place of unfolding it: fields of a request, the
choice of recipients and slots, a place in a queue, the making of a record, and a command at its port. -/

namespace Sys2Proof.Machine

/-! ## Fields of a request -/

theorem hostOf_eq_some {b : Byte} {h : HostId} : hostOf b = some h ↔ h.val = b.toNat := by
  unfold hostOf
  split <;> simp [Fin.ext_iff] <;> omega

theorem sourceOf_eq_some {b : Byte} {n : SourceId} : sourceOf b = some n ↔ n.val = b.toNat := by
  unfold sourceOf
  split <;> simp [Fin.ext_iff] <;> omega

theorem sourceOf_eq_none {b : Byte} : sourceOf b = none ↔ 63 < b.toNat := by
  unfold sourceOf
  split <;> simp <;> omega

theorem lineOf_eq_some {b : Byte} {n : LineId} : lineOf b = some n ↔ n.val = b.toNat := by
  unfold lineOf
  split <;> simp [Fin.ext_iff] <;> omega

theorem lineOf_eq_none {b : Byte} : lineOf b = none ↔ 23 < b.toNat := by
  unfold lineOf
  split <;> simp <;> omega

theorem slotOf_eq_some {b : Byte} {i : SlotId} : slotOf b = some i ↔ i.val = b.toNat := by
  unfold slotOf
  split <;> simp [Fin.ext_iff] <;> omega

theorem rangeOf_eq_some {lo hi : Nat} {b : Byte} {k : Nat} :
    rangeOf lo hi b = some k ↔ k = b.toNat ∧ lo ≤ k ∧ k ≤ hi := by
  unfold rangeOf
  split <;> simp <;> omega

theorem timeOf_eq_some {lo : Nat} {hi8 lo8 : Byte} {k : Nat} :
    timeOf lo hi8 lo8 = some k ↔ k = hi8.toNat * 256 + lo8.toNat ∧ lo ≤ k ∧ k ≤ 1000 := by
  unfold timeOf be16 Config.timeLimit
  split <;> simp <;> omega

theorem yesNoOf_eq_some {b : Byte} {x : Bool} : yesNoOf b = some x ↔ b = if x then 1 else 0 := by
  unfold yesNoOf
  split
  · next h => cases x <;> simp [h]
  · split
    · next h => cases x <;> simp [h]
    · next h0 h1 => cases x <;> simp_all

theorem yesNoOf_eq_none {b : Byte} : yesNoOf b = none ↔ 1 < b.toNat := by
  have h0 : b = 0 ↔ b.toNat = 0 := BitVec.toNat_inj.symm
  have h1 : b = 1 ↔ b.toNat = 1 := BitVec.toNat_inj.symm
  unfold yesNoOf
  split
  · next h => simp [h0.mp h]
  · split
    · next h => simp [h1.mp h]
    · next ha hb => simp only [true_iff]; rw [h0] at ha; rw [h1] at hb; omega

/-- An occurrence ID names the record in its slot if the slot is LIVE at this generation, and nothing otherwise (R10). -/
theorem resolve_eq_some {s : State} {generation slot : Byte} {i : SlotId} :
    s.resolve generation slot = some i ↔
      i.val = slot.toNat ∧ (s.record? i).isSome = true ∧ (s.slot i).generation = generation := by
  unfold State.resolve
  cases h : slotOf slot with
  | none =>
    simp only [reduceCtorEq, false_iff, not_and]
    intro hi
    rw [slotOf_eq_some.mpr hi] at h
    cases h
  | some j =>
    have hj := slotOf_eq_some.mp h
    by_cases hij : i = j
    · subst hij; simp [hj]
    · have : i.val ≠ slot.toNat := fun e => hij (Fin.ext (e.trans hj.symm))
      simp only [this, false_and, iff_false]
      split
      · simpa using fun e => hij e.symm
      · simp

/-! ## Slots and recipients -/

/-- A find over the ascending indices answers the lowest that satisfies the test. -/
theorem find?_finRange_eq_some {n : Nat} {f : Fin n → Bool} {i : Fin n} :
    (List.finRange n).find? f = some i ↔ f i = true ∧ ∀ j, j < i → f j = false := by
  rw [List.find?_eq_some_iff_getElem]
  constructor
  · rintro ⟨hf, k, hk, hi, hlow⟩
    refine ⟨hf, fun j hj => ?_⟩
    have hik : i.val = k := by rw [← hi]; simp
    have := hlow j.val (by rw [← hik]; exact hj)
    simpa using this
  · rintro ⟨hf, hlow⟩
    refine ⟨hf, i.val, by simp, by simp, fun j hj => ?_⟩
    have := hlow ⟨j, by omega⟩ hj
    simpa using this

/-- The slot that an allocation takes is the lowest FREE one (R4). -/
theorem lowestFree_eq_some {s : State} {i : SlotId} : s.lowestFree = some i ↔ LowestFree s i := by
  unfold State.lowestFree allSlots LowestFree
  rw [find?_finRange_eq_some]
  simp [← Option.isSome_iff_ne_none]

/-- An allocation for a general source with room takes the lowest FREE slot (R4). -/
theorem allocate?_general {s : State} {n : SourceId} {i : SlotId} (hn : isSystem n = false)
    (hroom : s.store.generalLive < 44) (hi : LowestFree s i) : s.allocate? n = some i := by
  have hg : s.grants n = true := by
    unfold State.grants
    rw [hn]
    exact decide_eq_true hroom
  unfold State.allocate?
  rw [if_pos hg]
  exact lowestFree_eq_some.mpr hi

/-- An allocation for a general source at the capacity is refused (R4). -/
theorem allocate?_full {s : State} {n : SourceId} (hn : isSystem n = false) (hfull : 44 ≤ s.store.generalLive) :
    s.allocate? n = none := by
  have hg : ¬ s.grants n = true := by
    unfold State.grants
    rw [hn]
    exact fun h => absurd (of_decide_eq_true h) (Nat.not_lt.mpr hfull)
  unfold State.allocate?
  rw [if_neg hg]

/-- The choice of recipients finds what R48 says: the usable targets, or the usable fallback host alone. -/
theorem recipients_eq_some {s : State} {c : RouteConfig} {hosts : List HostId} {esc : Bool} :
    s.recipients c = some (hosts, esc) ↔ Recipients s c hosts esc := by
  unfold State.recipients Recipients State.usableTargets
  generalize allHosts.filter (fun h => hostIn c.targets h && s.usable h) = l
  constructor
  · intro h
    cases l with
    | cons k ks => cases h; exact .inl ⟨rfl, List.cons_ne_nil _ _, rfl⟩
    | nil =>
      cases hf : c.fallback with
      | none => simp [hf] at h
      | some f =>
        by_cases hu : s.usable f = true
        · simp only [hf, hu, if_true, Option.some.injEq, Prod.mk.injEq] at h
          exact .inr ⟨rfl, f, rfl, hu, h.1.symm, h.2.symm⟩
        · simp [hf, hu] at h
  · rintro (⟨rfl, hne, rfl⟩ | ⟨rfl, f, hf, hu, rfl, rfl⟩)
    · cases hosts with
      | nil => exact absurd rfl hne
      | cons k ks => rfl
    · simp [hf, hu]

/-- The choice of recipients finds nobody exactly where R48 says so. -/
theorem recipients_eq_none {s : State} {c : RouteConfig} : s.recipients c = none ↔ NoRecipient s c := by
  unfold State.recipients NoRecipient State.usableTargets
  cases allHosts.filter (fun h => hostIn c.targets h && s.usable h) with
  | cons h hs => simp
  | nil =>
    cases hf : c.fallback with
    | none => simp
    | some f => by_cases hu : s.usable f = true <;> simp_all

/-- The recipients of a record are distinct. -/
theorem Recipients.nodup {s : State} {c : RouteConfig} {hosts : List HostId} {esc : Bool}
    (h : Recipients s c hosts esc) : hosts.Nodup := by
  rcases h with ⟨rfl, -, -⟩ | ⟨-, f, -, -, rfl, -⟩
  · exact (List.nodup_finRange 4).filter _
  · simp

/-- The recipients of a record are usable. -/
theorem Recipients.usable {s : State} {c : RouteConfig} {hosts : List HostId} {esc : Bool}
    (h : Recipients s c hosts esc) : ∀ k ∈ hosts, s.usable k = true := by
  rcases h with ⟨rfl, -, -⟩ | ⟨-, f, -, hu, rfl, -⟩
  · intro k hk
    have := (List.mem_filter.mp hk).2
    simp only [Bool.and_eq_true] at this
    exact this.2
  · simpa using hu

/-! ## Queues -/

/-- An insertion puts the copy directly after the last entry of at least its priority, or at the front (R87). -/
theorem insertByPriority_inserted (prio : SlotId → Nat) (i : SlotId) (l : List SlotId) :
    Inserted prio i l (insertByPriority prio i l) := by
  induction l with
  | nil => exact ⟨[], [], rfl, rfl, by simp, by simp⟩
  | cons x xs ih =>
    unfold insertByPriority
    split
    · next hany =>
      obtain ⟨ahead, behind, hold, hnew, hb, ha⟩ := ih
      refine ⟨x :: ahead, behind, by rw [hold]; rfl, by rw [hnew]; rfl, hb, ?_⟩
      cases ahead with
      | nil =>
        obtain ⟨y, hy, hle⟩ := List.any_eq_true.mp hany
        rw [hold, List.nil_append] at hy
        rcases List.mem_cons.mp hy with rfl | hy
        · simpa using hle
        · exact absurd (of_decide_eq_true hle) (Nat.not_le.mpr (hb y hy))
      | cons a as => simpa using ha
    · next hnone =>
      refine ⟨[], x :: xs, rfl, rfl, fun y hy => ?_, by simp⟩
      have hn : (x :: xs).any (fun y => decide (prio i ≤ prio y)) = false := by simpa using hnone
      have := List.any_eq_false.mp hn y hy
      simpa using this

/-- Copies put into the queues of distinct hosts: each of these queues gains the slot, and nothing else changes. -/
theorem deliv_foldl_enqueue (i : SlotId) (hosts : List HostId) (hn : hosts.Nodup) (s : State) (h : HostId) :
    (hosts.foldl (fun t k => t.enqueue k i) s).deliv h =
      if h ∈ hosts then { s.deliv h with queue := insertByPriority s.priorityOf i (s.deliv h).queue } else s.deliv h := by
  induction hosts generalizing s with
  | nil => simp
  | cons k ks ih =>
    obtain ⟨hk, hks⟩ := List.nodup_cons.mp hn
    rw [List.foldl_cons, ih hks, deliv_enqueue]
    have hp : (s.enqueue k i).priorityOf = s.priorityOf := rfl
    rw [hp]
    by_cases hh : h = k
    · subst hh; simp [hk]
    · simp [hh]

/-- Insertion into queues leaves every other part of the state. -/
theorem foldl_enqueue_same (i : SlotId) (hosts : List HostId) (s : State) :
    let t := hosts.foldl (fun t k => t.enqueue k i) s
    t.store = s.store ∧ t.routes = s.routes ∧ t.hosts = s.hosts ∧ t.waitList = s.waitList ∧ t.posts = s.posts := by
  induction hosts generalizing s with
  | nil => simp
  | cons k ks ih => simpa using ih (s.enqueue k i)

/-- One host woken for a copy: DEEP with the copy PENDING becomes WAKING (R148). -/
theorem host_wakeFor (s : State) (k h : HostId) (i : SlotId) :
    (s.wakeFor k i).host h =
      if h = k ∧ (s.host h).state = .deep ∧ s.isPending h i = true then
        { s.host h with state := .waking, wakeTimer := some (s.host h).wakeLimit }
      else s.host h := by
  unfold State.wakeFor
  by_cases hh : h = k
  · subst hh
    by_cases hw : (s.host h).state = .deep ∧ s.isPending h i = true
    · rw [if_pos (by simpa using hw), if_pos ⟨rfl, hw⟩, host_setHost_same]
    · rw [if_neg (by simpa using hw), if_neg (fun h => hw h.2)]
  · have hc : ¬ (h = k ∧ (s.host h).state = .deep ∧ s.isPending h i = true) := fun e => hh e.1
    rw [if_neg hc]
    split
    · exact host_setHost_other _ _ _ _ hh
    · rfl

/-- Hosts woken for a copy: each DEEP one with the copy PENDING is WAKING (R148). -/
theorem host_foldl_wakeFor (i : SlotId) (hosts : List HostId) (s : State) (h : HostId) :
    (hosts.foldl (fun t k => t.wakeFor k i) s).host h =
      if h ∈ hosts ∧ (s.host h).state = .deep ∧ s.isPending h i = true then
        { s.host h with state := .waking, wakeTimer := some (s.host h).wakeLimit }
      else s.host h := by
  induction hosts generalizing s with
  | nil => simp
  | cons k ks ih =>
    have hp : (s.wakeFor k i).isPending h i = s.isPending h i := by
      unfold State.wakeFor
      split <;> rfl
    rw [List.foldl_cons, ih, hp, host_wakeFor]
    by_cases hw : (s.host h).state = .deep ∧ s.isPending h i = true
    · by_cases hh : h = k
      · simp [hh ▸ hw, hh]
      · simp [hw, hh]
    · simp [hw]

/-- Waking hosts leaves every other part of the state. -/
theorem foldl_wakeFor_same (i : SlotId) (hosts : List HostId) (s : State) :
    let t := hosts.foldl (fun t k => t.wakeFor k i) s
    t.store = s.store ∧ t.routes = s.routes ∧ t.delivery = s.delivery ∧ t.waitList = s.waitList ∧ t.posts = s.posts := by
  induction hosts generalizing s with
  | nil => simp
  | cons k ks ih =>
    have hk : (s.wakeFor k i).store = s.store ∧ (s.wakeFor k i).routes = s.routes
        ∧ (s.wakeFor k i).delivery = s.delivery ∧ (s.wakeFor k i).waitList = s.waitList
        ∧ (s.wakeFor k i).posts = s.posts := by
      unfold State.wakeFor
      split <;> exact ⟨rfl, rfl, rfl, rfl, rfl⟩
    have h := ih (s.wakeFor k i)
    simp only [List.foldl_cons]
    exact ⟨h.1.trans hk.1, h.2.1.trans hk.2.1, h.2.2.1.trans hk.2.2.1, h.2.2.2.1.trans hk.2.2.2.1,
      h.2.2.2.2.trans hk.2.2.2.2⟩

/-! ## The making of a record -/

/-- A new copy for a usable host stands as Table 3-3 says. -/
theorem newCopy_eq (s : State) (r : Record) (h : HostId) (esc : Bool) (hu : s.usable h = true) :
    s.newCopy r h esc =
      { state := madeCopyState (s.host h).state r.deepWake
        deadline := if esc = true ∨ r.deadline = 0 then none else some r.deadline
        grace := none
        escalation := esc } := by
  unfold State.usable at hu
  unfold State.newCopy copyStateAt madeCopyState
  cases hs : (s.host h).state <;> simp_all [HostState.usable]

/-- The record stored for distinct usable hosts is the one that its route, its kind and its hosts make (R5, R50). -/
theorem withCopies_eq_madeRecord (s : State) (n : SourceId) (k : Particulars) (delayed : Bool) (repeats : Nat)
    (hosts : List HostId) (esc : Bool) (hu : ∀ h ∈ hosts, s.usable h = true) :
    s.withCopies (s.newRecord n k delayed repeats) hosts esc = madeRecord s n k delayed repeats hosts esc := by
  have hc : (fun h => if hosts.contains h then some (s.newCopy (s.newRecord n k delayed repeats) h esc) else none) =
      fun h => if h ∈ hosts then
        some { state := madeCopyState (s.host h).state (s.route n).config.deepWake
               deadline := if esc = true ∨ (s.route n).config.deadline = 0 then none else some (s.route n).config.deadline
               grace := none
               escalation := esc : Copy }
      else none := by
    funext h
    by_cases hh : h ∈ hosts
    · simp [hh, newCopy_eq _ _ _ _ (hu h hh), State.newRecord]
    · simp [hh]
  unfold State.withCopies madeRecord
  rw [hc]
  rfl

/-- A class count raised: the one count of the source's class, and nothing else. -/
theorem countClass_effect (s : State) (n : SourceId) :
    (s.countClass n (· + 1)).delivery = s.delivery ∧ (s.countClass n (· + 1)).hosts = s.hosts
      ∧ (s.countClass n (· + 1)).routes = s.routes ∧ (s.countClass n (· + 1)).waitList = s.waitList
      ∧ (s.countClass n (· + 1)).posts = s.posts ∧ (s.countClass n (· + 1)).store.slots = s.store.slots
      ∧ (s.countClass n (· + 1)).store.generalLive = s.store.generalLive + (if isSystem n then 0 else 1)
      ∧ (s.countClass n (· + 1)).store.systemLive = s.store.systemLive + (if isSystem n then 1 else 0)
      ∧ (s.countClass n (· + 1)).store.births = s.store.births := by
  unfold State.countClass
  cases hs : isSystem n <;> simp

/-- The state once record `r` stands in slot `i` and its counts are raised, before its copies are offered (R4, R14). -/
def State.stored (s : State) (i : SlotId) (r : Record) : State :=
  ((s.countClass r.source (· + 1)).countBirth.setRecord i r).countRoute r.source (· + 1)

theorem stored_slot (s : State) (i j : SlotId) (r : Record) :
    (s.stored i r).slot j = if j = i then { generation := (s.slot i).generation, record := some r } else s.slot j := by
  have hc : ∀ k, ((s.countClass r.source (· + 1)).countBirth).slot k = s.slot k := fun k => by
    unfold State.slot State.countBirth
    rw [(countClass_effect s r.source).2.2.2.2.2.1]
  unfold State.stored
  rw [slot_countRoute, State.setRecord, slot_setSlot]
  simp only [hc]

theorem stored_route (s : State) (i : SlotId) (r : Record) (n : SourceId) :
    (s.stored i r).route n =
      if n = r.source then { s.route n with liveCount := (s.route n).liveCount + 1 } else s.route n := by
  have hc : ∀ k, (((s.countClass r.source (· + 1)).countBirth).setRecord i r).route k = s.route k := fun k => by
    show vget (s.countClass r.source (· + 1)).routes k = vget s.routes k
    rw [(countClass_effect s r.source).2.2.1]
  unfold State.stored State.countRoute
  rw [route_setRoute]
  split
  · next h => rw [hc, h]
  · rw [hc]

theorem stored_same (s : State) (i : SlotId) (r : Record) :
    (s.stored i r).delivery = s.delivery ∧ (s.stored i r).hosts = s.hosts ∧ (s.stored i r).waitList = s.waitList
      ∧ (s.stored i r).posts = s.posts :=
  have h := countClass_effect s r.source
  ⟨h.1, h.2.1, h.2.2.2.1, h.2.2.2.2.1⟩

theorem stored_counts (s : State) (i : SlotId) (r : Record) :
    (s.stored i r).store.generalLive = s.store.generalLive + (if isSystem r.source then 0 else 1)
      ∧ (s.stored i r).store.systemLive = s.store.systemLive + (if isSystem r.source then 1 else 0)
      ∧ (s.stored i r).store.births = s.store.births + 1 := by
  have h := countClass_effect s r.source
  exact ⟨h.2.2.2.2.2.2.1, h.2.2.2.2.2.2.2.1, congrArg (· + 1) h.2.2.2.2.2.2.2.2⟩

/-- `createRecord` makes the record its name says, with its copies in their queues, its counts raised and its hosts woken
(R4, R14, R50, R51). -/
theorem createRecord_created (s : State) (i : SlotId) (n : SourceId) (k : Particulars) (delayed : Bool) (repeats : Nat)
    (hosts : List HostId) (esc : Bool) (hn : hosts.Nodup) (hu : ∀ h ∈ hosts, s.usable h = true) :
    Created s (s.createRecord i (s.newRecord n k delayed repeats) hosts esc) i
      (madeRecord s n k delayed repeats hosts esc) hosts := by
  have hkept := createRecord_kept s i (s.newRecord n k delayed repeats) hosts esc
  have ht : s.createRecord i (s.newRecord n k delayed repeats) hosts esc
      = hosts.foldl (fun t h => t.wakeFor h i)
          (hosts.foldl (fun t h => t.enqueue h i) (s.stored i (madeRecord s n k delayed repeats hosts esc))) := by
    unfold State.createRecord
    rw [withCopies_eq_madeRecord s n k delayed repeats hosts esc hu]
    rfl
  have hdw : (madeRecord s n k delayed repeats hosts esc).deepWake = (s.route n).config.deepWake := rfl
  have hcopy : ∀ h ∈ hosts, ((madeRecord s n k delayed repeats hosts esc).copy h).map (fun c => c.state)
      = some (madeCopyState (s.host h).state (s.route n).config.deepWake) := fun h hh => by
    simp [Record.copy, madeRecord, hh]
  rw [ht] at hkept ⊢
  generalize madeRecord s n k delayed repeats hosts esc = r at *
  have hw := foldl_wakeFor_same i hosts (hosts.foldl (fun t h => t.enqueue h i) (s.stored i r))
  have he := foldl_enqueue_same i hosts (s.stored i r)
  have hhost := fun h => host_foldl_wakeFor i hosts (hosts.foldl (fun t h => t.enqueue h i) (s.stored i r)) h
  have hdeliv := fun h => deliv_foldl_enqueue i hosts hn (s.stored i r) h
  dsimp only at hw he
  obtain ⟨hs1, hs2, hs3, hs4⟩ := stored_same s i r
  generalize hosts.foldl (fun t h => t.enqueue h i) (s.stored i r) = q at *
  generalize hosts.foldl (fun t h => t.wakeFor h i) q = t at *
  have hslot : ∀ j, t.slot j = (s.stored i r).slot j := fun j => by unfold State.slot; rw [hw.1, he.1]
  have hroute : ∀ m, t.route m = (s.stored i r).route m := fun m => by unfold State.route; rw [hw.2.1, he.2.1]
  have hd : ∀ h, t.deliv h = q.deliv h := fun h => by unfold State.deliv; rw [hw.2.2.1]
  have hds : ∀ h, (s.stored i r).deliv h = s.deliv h := fun h => by unfold State.deliv; rw [hs1]
  have hqh : ∀ h, q.host h = s.host h := fun h => by unfold State.host; rw [he.2.2.1, hs2]
  have hprio : t.priorityOf = (s.stored i r).priorityOf := by
    funext j
    unfold State.priorityOf State.record?
    rw [hslot]
  have hpend : ∀ h ∈ hosts, (s.host h).state = .deep → (q.isPending h i = true ↔ r.deepWake = true) := fun h hh hdeep => by
    have hrec : q.record? i = some r := by
      unfold State.record? State.slot
      rw [he.1]
      exact congrArg Slot.record ((stored_slot s i i r).trans (if_pos rfl))
    have := hcopy h hh
    unfold State.isPending State.copy?
    rw [hrec]
    cases hc : r.copy h with
    | none => rw [hc] at this; cases this
    | some c =>
      rw [hc, Option.map_some, Option.some.injEq, hdeep, ← hdw] at this
      simp only [hc]
      rw [this]
      unfold madeCopyState
      cases r.deepWake <;> simp
  have hc := stored_counts s i r
  have hsto : t.store = (s.stored i r).store := hw.1.trans he.1
  exact
    { slot := (hslot i).trans ((stored_slot s i i r).trans (if_pos rfl))
      otherSlots := fun j hj => (hslot j).trans ((stored_slot s i j r).trans (if_neg hj))
      generalLive := by rw [hsto]; exact hc.1
      systemLive := by rw [hsto]; exact hc.2.1
      births := by rw [hsto]; exact hc.2.2
      route := (hroute _).trans ((stored_route s i r _).trans (if_pos rfl))
      otherRoutes := fun m hm => (hroute m).trans ((stored_route s i r m).trans (if_neg hm))
      offered := fun h hh => by
        have hq := (hd h).trans ((hdeliv h).trans (if_pos hh))
        rw [hds] at hq
        rw [hq, hprio]
        exact ⟨insertByPriority_inserted _ _ _, rfl⟩
      otherQueues := fun h hh => ((hd h).trans ((hdeliv h).trans (if_neg hh))).trans (hds h)
      woken := fun h hh => by
        rw [hhost, hqh]
        unfold HostRecord.woken
        by_cases hdeep : (s.host h).state = .deep
        · simp only [hh, hdeep, hpend h hh hdeep, true_and]
        · simp [hdeep]
      otherHosts := fun h hh => by rw [hhost, hqh, if_neg (fun e => hh e.1)]
      waitList := (hw.2.2.2.1.trans he.2.2.2.1).trans hs3
      posts := (hw.2.2.2.2.trans he.2.2.2.2).trans hs4
      ports := hkept.ports
      rest := ⟨hkept.lines, hkept.clock, hkept.administrator, hkept.pending, hkept.config⟩ }

/-! ## Retirement and escalation -/

/-- Items that agree at every index are the same. -/
theorem ext_vget {α : Type} {n : Nat} {v w : Vector α n} (h : ∀ i, vget v i = vget w i) : v = w := by
  rw [← vof_vget v, ← vof_vget w, funext h]

/-- A record is finished exactly if all its copies are terminal (R11). -/
theorem finished_iff {r : Record} : r.finished = true ↔ ∀ h c, r.copy h = some c → c.state.terminal = true := by
  unfold Record.finished allHosts Record.hasCopy
  rw [List.all_eq_true]
  refine ⟨fun h k c hc => ?_, fun h k _ => ?_⟩
  · simpa [hc] using h k (List.mem_finRange k)
  · cases hc : r.copy k with
    | none => rfl
    | some c => simp [h k c hc]

/-- Some copy of a record is ACKED. -/
theorem someAcked_iff {r : Record} : r.someAcked = true ↔ ∃ h c, r.copy h = some c ∧ c.state = .acked := by
  unfold Record.someAcked allHosts Record.hasCopy
  rw [List.any_eq_true]
  refine ⟨fun ⟨k, _, h⟩ => ?_, fun ⟨k, c, hc, h⟩ => ⟨k, List.mem_finRange k, by simp [hc, h]⟩⟩
  cases hc : r.copy k with
  | none => simp [hc] at h
  | some c => exact ⟨k, c, hc, by simpa [hc] using h⟩

/-- The conditions of a successful escalation (R77). -/
theorem mayEscalate_iff {s : State} {r : Record} {f : HostId} (hf : r.fallback = some f) :
    s.mayEscalate r f = true ↔ Escalates s r f := by
  have hs : r.satisfied = false ↔ (r.policy = .any → ∀ h c, r.copy h = some c → c.state ≠ .acked) := by
    rw [← Bool.not_eq_true]
    unfold Record.satisfied
    simp [someAcked_iff]
  unfold State.mayEscalate Escalates
  simp only [Bool.and_eq_true, Bool.not_eq_true', hs, hf, Option.isNone_iff_eq_none]
  tauto

/-- The level of line `l` is one that a re-check raises (R109, R110). -/
theorem conditionPresent_iff {l : Line} :
    l.conditionPresent = true ↔ l.config.mode.isActive l.qual.level = true ∧ l.qual.firstPending = false := by
  unfold Line.conditionPresent
  simp [and_comm]

/-- Steps 2 to 4 of a retirement, written out (R14 to R16, R133). -/
theorem closeRecord_eq (s : State) (i : SlotId) (r : Record) :
    s.closeRecord i r =
      { s.setRoute r.source
          { s.route r.source with
            liveCount := (s.route r.source).liveCount - 1, lastOutcome := .ended r.outcome } with
        posts := vof (fun h =>
          if r.reservedBy h = true then
            { receipts := (s.postUnit h).receipts ++
                [{ generation := (s.slot i).generation, slot := i, source := r.source, outcome := r.outcome,
                   time := s.clock.timebase }]
              reservations := (s.postUnit h).reservations - 1 }
          else s.postUnit h)
        store := { s.store with
          slots := vset s.store.slots i { generation := (s.slot i).generation + 1, record := none }
          generalLive := s.store.generalLive - (if isSystem r.source then 0 else 1)
          systemLive := s.store.systemLive - (if isSystem r.source then 1 else 0) } } := by
  have hroute : s.closeRoute r = s.setRoute r.source
      { s.route r.source with liveCount := (s.route r.source).liveCount - 1, lastOutcome := .ended r.outcome } := by
    unfold State.closeRoute State.countRoute State.setLastOutcome State.setRoute State.route
    simp [vset, vget]
  have hposts : ((s.closeRoute r).giveReceipt i r) = { s.closeRoute r with posts := vof (fun h =>
          if r.reservedBy h = true then
            { receipts := (s.postUnit h).receipts ++
                [{ generation := (s.slot i).generation, slot := i, source := r.source, outcome := r.outcome,
                   time := s.clock.timebase }]
              reservations := (s.postUnit h).reservations - 1 }
          else s.postUnit h) } := by
    have hsame : vof (fun h => s.postUnit h) = s.posts := vof_vget s.posts
    rw [hroute]
    unfold State.giveReceipt Record.reservedBy
    split
    · next payload poster hk =>
      show State.setPostUnit _ _ _ = _
      unfold State.setPostUnit
      congr 1
      apply ext_vget
      intro h
      simp only [vget_vset, vget_vof, hk]
      by_cases e : h = poster
      · subst e; simp [State.setRoute, State.postUnit, State.slot]
      · simp [e, Ne.symm e, State.setRoute, State.postUnit]
    · simp only [Bool.false_eq_true, if_false, hsame]
      rfl
  unfold State.closeRecord State.freeSlot
  rw [hposts, hroute]
  unfold State.countClass
  cases hsys : isSystem r.source <;> simp [State.setSlot, State.slot, State.setRoute]
/-! ## The ends of events -/

/-- After the lines are driven, they stand by their conditions (R101, R155). -/
theorem driveLines_linesDriven (s : State) : s.driveLines.LinesDriven := by
  intro h
  constructor
  · simp only [deliv_driveLines, State.attnCondition, State.eligibleHead, State.head?, State.aboveGate, host_driveLines]
    rfl
  · simp [State.wakeCondition]

/-! ## A command at its port -/

/-- The row of a host command is its rule at its port. -/
theorem exec_rowOf (c : Cmd) (p : HostId) (body : List Byte) (s : State) :
    exec (rowOf c p body) s = .next (s.hostCommand p c body (ruleOf c)) := by
  cases c <;> rfl

/-- A command that its port is ready for is carried out (log entry 2). -/
theorem hostCommand_of_ready {s : State} {p : HostId} {c : Cmd} {body : List Byte} (h : s.ready p c body = true)
    (rule : Rule) : s.hostCommand p c body rule = s.carryOut p body rule := if_pos h

/-- A command that its port is not ready for is the transaction of its frame and no more (log entry 2). -/
theorem hostCommand_of_not_ready {s : State} {p : HostId} {c : Cmd} {body : List Byte} (h : s.ready p c body = false)
    (rule : Rule) : s.hostCommand p c body rule = s.transaction p (requestFrame c body) := if_neg (by simp [h])

/-- A port that ignores the transaction in progress ignores it whatever its bytes, and listens from then on (R165). -/
theorem transaction_of_ignoring {s : State} {p : HostId} (h : (s.port p).ignoring = true) (bytes : List Byte) :
    s.transaction p bytes = s.ignoreTransaction p := if_pos h

/-- What a command that its port is ready for does: its rule's effect on the state it meets, and its rule's answer. -/
theorem exec_rowOf_of_ready {s t : State} {p : HostId} {c : Cmd} {body : List Byte} {r : Response}
    (h : s.ready p c body = true) (hr : ruleOf c p body (s.returnToRun p) = (t, r)) :
    exec (rowOf c p body) s = .next (s.answered t p body r) := by
  rw [exec_rowOf, hostCommand_of_ready h, State.carryOut, hr]

end Sys2Proof.Machine
end

