-- ==== Sys2Proof/Laws/PerInstr.lean ====
section
/-! SUPPORT. Facts about each command's row as syntax. -/

namespace Sys2Proof.Laws.HostRows

open Sys2Proof.Machine

/-- The command, port and body of a host command's row; the other rows have none. -/
def frameOf : Instr → Option (Cmd × HostId × List Byte)
  | .deviceReset _ => none
  | .requestTransaction _ _ => none
  | .executionComplete _ => none
  | .fetch _ _ => none
  | .ident p body => some (.ident, p, body)
  | .status p body => some (.status, p, body)
  | .attach p body => some (.attach, p, body)
  | .detach p body => some (.detach, p, body)
  | .power p body => some (.power, p, body)
  | .level p body => some (.level, p, body)
  | .take p body => some (.take, p, body)
  | .peek p body => some (.peek, p, body)
  | .ack p body => some (.ack, p, body)
  | .detail p body => some (.detail, p, body)
  | .post p body => some (.post, p, body)
  | .receipt p body => some (.receipt, p, body)
  | .routeRead p body => some (.routeRead, p, body)
  | .routeWrite p body => some (.routeWrite, p, body)
  | .purge p body => some (.purge, p, body)
  | .lineRead p body => some (.lineRead, p, body)
  | .lineWrite p body => some (.lineWrite, p, body)
  | .flushall p body => some (.flushall, p, body)
  | .restore p body => some (.restore, p, body)
  | .millisecondTick => none
  | .sampleTick _ _ _ => none
  | .deadlineExpiry _ _ => none
  | .graceExpiry _ _ => none
  | .wakeTimerExpiry _ => none
  | .refclkRisingEdge => none
  | .lossDetection => none
  | .stabilityReached => none

/-- A host command's row is the row of the command, port and body it carries, and it is well formed exactly if its body fits a
frame (R166, Table 11-6). -/
def Statement (i : Instr) : Prop :=
  ∀ c p body, frameOf i = some (c, p, body) → rowOf c p body = i ∧ (i.wf = true ↔ body.length ≤ 24)

theorem deviceReset (pins : ResetPins) : Statement (.deviceReset pins) := by
  rintro c q b h; cases h

theorem requestTransaction (p : HostId) (bytes : List Byte) : Statement (.requestTransaction p bytes) := by
  rintro c q b h; cases h

theorem executionComplete (p : HostId) : Statement (.executionComplete p) := by
  rintro c q b h; cases h

theorem fetch (p : HostId) (clocked : Nat) : Statement (.fetch p clocked) := by
  rintro c q b h; cases h

theorem ident (p : HostId) (body : List Byte) : Statement (.ident p body) := by
  rintro c q b h; cases h; exact ⟨rfl, decide_eq_true_iff⟩

theorem status (p : HostId) (body : List Byte) : Statement (.status p body) := by
  rintro c q b h; cases h; exact ⟨rfl, decide_eq_true_iff⟩

theorem attach (p : HostId) (body : List Byte) : Statement (.attach p body) := by
  rintro c q b h; cases h; exact ⟨rfl, decide_eq_true_iff⟩

theorem detach (p : HostId) (body : List Byte) : Statement (.detach p body) := by
  rintro c q b h; cases h; exact ⟨rfl, decide_eq_true_iff⟩

theorem power (p : HostId) (body : List Byte) : Statement (.power p body) := by
  rintro c q b h; cases h; exact ⟨rfl, decide_eq_true_iff⟩

theorem level (p : HostId) (body : List Byte) : Statement (.level p body) := by
  rintro c q b h; cases h; exact ⟨rfl, decide_eq_true_iff⟩

theorem take (p : HostId) (body : List Byte) : Statement (.take p body) := by
  rintro c q b h; cases h; exact ⟨rfl, decide_eq_true_iff⟩

theorem peek (p : HostId) (body : List Byte) : Statement (.peek p body) := by
  rintro c q b h; cases h; exact ⟨rfl, decide_eq_true_iff⟩

theorem ack (p : HostId) (body : List Byte) : Statement (.ack p body) := by
  rintro c q b h; cases h; exact ⟨rfl, decide_eq_true_iff⟩

theorem detail (p : HostId) (body : List Byte) : Statement (.detail p body) := by
  rintro c q b h; cases h; exact ⟨rfl, decide_eq_true_iff⟩

theorem post (p : HostId) (body : List Byte) : Statement (.post p body) := by
  rintro c q b h; cases h; exact ⟨rfl, decide_eq_true_iff⟩

theorem receipt (p : HostId) (body : List Byte) : Statement (.receipt p body) := by
  rintro c q b h; cases h; exact ⟨rfl, decide_eq_true_iff⟩

theorem routeRead (p : HostId) (body : List Byte) : Statement (.routeRead p body) := by
  rintro c q b h; cases h; exact ⟨rfl, decide_eq_true_iff⟩

theorem routeWrite (p : HostId) (body : List Byte) : Statement (.routeWrite p body) := by
  rintro c q b h; cases h; exact ⟨rfl, decide_eq_true_iff⟩

theorem purge (p : HostId) (body : List Byte) : Statement (.purge p body) := by
  rintro c q b h; cases h; exact ⟨rfl, decide_eq_true_iff⟩

theorem lineRead (p : HostId) (body : List Byte) : Statement (.lineRead p body) := by
  rintro c q b h; cases h; exact ⟨rfl, decide_eq_true_iff⟩

theorem lineWrite (p : HostId) (body : List Byte) : Statement (.lineWrite p body) := by
  rintro c q b h; cases h; exact ⟨rfl, decide_eq_true_iff⟩

theorem flushall (p : HostId) (body : List Byte) : Statement (.flushall p body) := by
  rintro c q b h; cases h; exact ⟨rfl, decide_eq_true_iff⟩

theorem restore (p : HostId) (body : List Byte) : Statement (.restore p body) := by
  rintro c q b h; cases h; exact ⟨rfl, decide_eq_true_iff⟩

theorem millisecondTick : Statement .millisecondTick := by
  rintro c q b h; cases h

theorem sampleTick (period : Period) (levels : BitVec 24) (order : List LineId) : Statement (.sampleTick period levels order) := by
  rintro c q b h; cases h

theorem deadlineExpiry (slot : SlotId) (h : HostId) : Statement (.deadlineExpiry slot h) := by
  rintro c q b h; cases h

theorem graceExpiry (slot : SlotId) (h : HostId) : Statement (.graceExpiry slot h) := by
  rintro c q b h; cases h

theorem wakeTimerExpiry (h : HostId) : Statement (.wakeTimerExpiry h) := by
  rintro c q b h; cases h

theorem refclkRisingEdge : Statement .refclkRisingEdge := by
  rintro c q b h; cases h

theorem lossDetection : Statement .lossDetection := by
  rintro c q b h; cases h

theorem stabilityReached : Statement .stabilityReached := by
  rintro c q b h; cases h

end Sys2Proof.Laws.HostRows
end

