-- ==== Sys2Proof/Tests/Slice0.lean ====
section
/-! SUPPORT. Tests of the model against the manual's own numbers and examples, and the witnesses that the hypotheses of each statement can
be met. Every expected value is the manual's or is worked out by hand from its tables. -/

namespace Sys2Proof.Tests

open Sys2Proof.Machine

set_option Elab.async false

/-! ## Small states -/

/-- The state a command leaves. -/
def after (c : Instr) (s : State) : State :=
  match exec c s with
  | .next t => t
  | .fault x => nomatch x
  | .refused _ => s

/-- The response in the buffer of port `p` after a command. -/
def answer (c : Instr) (p : HostId) (s : State) : Option Response := ((after c s).port p).buffer

/-- Host `h` in RUN with grace limit 40 and wake limit 500, threshold 0, accepting. -/
def attached (h : HostId) (s : State) : State := s.openSession h 40 500

/-- H0 to H3 in RUN, H0 the administrator. -/
def up : State := attached 0 (attached 1 (attached 2 (attached 3 State.reset)))

def withRoute (n : SourceId) (c : RouteConfig) (s : State) : State := s.setRoute n { s.route n with config := c }

def withLine (n : LineId) (m : Mode) (g : Option GroupId) (s : State) : State :=
  s.setLine n { s.line n with config := { mode := m, period := .us100, q := 3, group := g } }

/-- A host's state alone replaced. -/
def withHost (h : HostId) (x : HostState) (timer : Option Nat) (s : State) : State :=
  s.setHost h { s.host h with state := x, wakeTimer := timer }

/-- A copy without timers. -/
def copyIn (x : CopyState) : Copy := { state := x, deadline := none, grace := none, escalation := false }

/-- A record put into slot `i`, with its copies in their queues and stacks and every count agreeing. -/
def put (i : SlotId) (n : SourceId) (k : Particulars) (cs : HostId → Option Copy) (s : State) : State :=
  let stored := ((s.countClass n (· + 1)).countBirth.setRecord i { s.newRecord n k false 0 with copies := vof cs }).countRoute
    n (· + 1)
  allHosts.foldl (fun t h => match cs h with
    | none => t
    | some c =>
      if c.offered then t.enqueue h i
      else if c.inService then
        t.setDeliv h { t.deliv h with stack := i :: (t.deliv h).stack, runningLevel := t.priorityOf i }
      else t) stored

/-- One copy, for one host. -/
def only (h : HostId) (c : Copy) : HostId → Option Copy := fun k => if k = h then some c else none

/-- An enabled route of H0 to the hosts H0 and H1, priority 5, policy ALL, depth 2. -/
def plain : RouteConfig :=
  { enabled := true, owner := 0, targets := 3, priority := 5, policy := .all, depth := 2, deadline := 0, fallback := none,
    deepWake := false, posters := 0 }

/-- Sources 3, 25 and 40 routed to H0 and H1 with the fallback H3, 40 open to every poster; line 3 in RISE. -/
def base : State :=
  withRoute 3 { plain with fallback := some 3 } (withRoute 25 plain
    (withRoute 40 { plain with fallback := some 3, posters := 15 } (withLine 3 .rise none up)))

/-- A record of line 3 in slot 0 with a copy in state `x` for H1. -/
def oneCopy (x : CopyState) : State := put 0 3 .line (only 1 (copyIn x)) base

/-- The general pool counted full. -/
def full (s : State) : State := { s with store := { s.store with generalLive := 44 } }

/-- Every record of a state satisfies what the check of each slot's record finds. -/
theorem of_every_record {s : State} {P : SlotId → Record → Prop} [∀ i r, Decidable (P i r)]
    (h : (allSlots.all fun i => match s.record? i with
      | none => true
      | some r => decide (P i r)) = true) : ∀ i r, s.record? i = some r → P i r := by
  intro i r hr
  have hi := List.all_eq_true.mp h i (List.mem_finRange i)
  simpa [hr] using hi

/-- Every live record holds a non-terminal copy, found record by record. -/
theorem unfinished_of_every_record {s : State} (h : ∀ i r, s.record? i = some r → r.finished = false) :
    s.RecordsUnfinished := by
  intro i
  split
  · trivial
  · exact h i _ (by assumption)

/-! ## Ill-formed steps are refused by the checks -/

theorem test_request_without_a_byte_is_ill_formed : (Instr.requestTransaction 0 []).wf = false := by decide

theorem test_request_that_is_a_fetch_is_ill_formed : (Instr.requestTransaction 0 [0, 1]).wf = false := by decide

/-- Every host command's row. -/
def hostRows (body : List Byte) : List Instr :=
  ([.ident, .status, .attach, .detach, .power, .level, .take, .peek, .ack, .detail, .post, .receipt, .routeRead,
    .routeWrite, .purge, .lineRead, .lineWrite, .flushall, .restore] : List Cmd).map (fun c => rowOf c 0 body)

theorem test_bodies_of_25_bytes_are_ill_formed :
    (hostRows (List.replicate 25 0)).all (fun i => !i.wf) = true
      ∧ (hostRows (List.replicate 24 0)).all (fun i => i.wf) = true := by decide

theorem test_an_order_naming_a_line_twice_is_ill_formed :
    (Instr.sampleTick .us10 0 [3, 4, 3]).wf = false ∧ (Instr.sampleTick .us10 0 [3, 4]).wf = true := by decide

/-! ## Frames and ports (Table 11-2, R166, R167) -/

theorem test_take_frame_of_table_11_2 : requestFrame .take [] = [0x20, 0x00, 0xAE] := by decide +kernel

theorem test_no_word_spells_a_command : decodeTableWord 8 0x20 = none := rfl

theorem test_a_fetch_before_any_request_answers_noresp :
    ((after (.fetch 1 3) State.reset).port 1).sdo = [2, 0, 0] := by decide +kernel

theorem test_a_request_during_execution_is_dropped :
    ((after (.requestTransaction 2 (requestFrame .peek [])) (after (.requestTransaction 2 [0x20, 0x00, 0xAE]) up)).port
      2).dropped = true := by decide +kernel

theorem test_a_wrong_crc_is_badframe :
    ((after (.requestTransaction 2 [0x22, 2, 0, 0, 0x55]) up).port 2).buffer
      = some { result := .badframe, body := [] } := by decide +kernel

theorem test_a_completion_places_the_answer :
    ((after (.executionComplete 2) (after (.requestTransaction 2 [0x20, 0x00, 0xAE]) up)).port 2).buffer
      = some { result := .none, body := [] } := by decide +kernel

/-! ## One step of each command -/

/-- A device reset with the straps at H2 and the chip select of port 1 low. -/
def resetDuring : Instr := .deviceReset { straps := 2, selected := 2 }

theorem test_device_reset_takes_the_straps :
    (after resetDuring up).administrator = 2 ∧ ((after resetDuring up).route 63).config.owner = 2 := by
  decide +kernel

/-- R165: the transaction that the reset cut into is ignored, and the next one, a request without a command code, is judged. -/
theorem test_a_transaction_that_reset_cut_into_is_ignored :
    ((after (.requestTransaction 1 [0x7F, 0x00, 0x00]) (after resetDuring up)).port 1).buffer = none
      ∧ ((after (.requestTransaction 1 [0x7F]) (after (.fetch 1 4) (after resetDuring up))).port 1).buffer
        = some { result := .badframe, body := [] } := by decide +kernel

theorem test_ident : answer (.ident 3 []) 3 State.reset
    = some { result := .ok, body := [0x0D, 0x41, 0x04, 0x16, 0x01] } := by decide +kernel

theorem test_status : answer (.status 3 []) 3 (oneCopy .pending)
    = some { result := .ok, body := [0, 0, 0, 0, 0, 43, 4, 0, 1, 1, 1, 1, 0] } := by decide +kernel

theorem test_attach_opens_a_session :
    ((after (.attach 1 [0, 40, 1, 0xF4, 0]) State.reset).host 1).state = .run
      ∧ ((after (.attach 1 [0, 40, 1, 0xF4, 0]) State.reset).host 1).wakeLimit = 500 := by decide +kernel

theorem test_attach_from_lost_raises_hostback :
    ((after (.attach 1 [0, 40, 1, 0xF4, 0]) (withRoute 31 { plain with depth := 1 } (withHost 1 .lost none up))).record?
      0).map (fun r => r.particulars) = some (.system (some 1)) := by decide +kernel

theorem test_detach_ends_the_copies :
    ((after (.detach 1 []) (oneCopy .pending)).copy? 0 1).map (fun c => c.state) = some .expired
      ∧ ((after (.detach 1 []) (oneCopy .pending)).copy? 0 3).map (fun c => c.escalation) = some true := by decide +kernel

theorem test_power_deep_parks :
    ((after (.power 1 [1]) (oneCopy .pending)).copy? 0 1).map (fun c => c.state) = some .parked := by decide +kernel

theorem test_level_at_its_bounds :
    ((after (.level 1 [15, 0]) up).deliv 1).threshold = 15
      ∧ answer (.level 1 [16, 0]) 1 up = some { result := .badarg, body := [] } := by decide +kernel

theorem test_take_moves_the_head :
    ((after (.take 1 []) (oneCopy .pending)).deliv 1).stack = [0]
      ∧ ((after (.take 1 []) (oneCopy .pending)).deliv 1).runningLevel = 5 := by decide +kernel

theorem test_take_answers_the_group_summary :
    answer (.take 1 []) 1 (put 4 25 (.group [13, 15] true) (only 1 (copyIn .pending)) base)
      = some { result := .ok, body := [0, 4, 25, 1, 5, 0, 0, 0, 0, 0, 0, 2, 13, 15] } := by decide +kernel

theorem test_peek_changes_nothing :
    answer (.peek 1 []) 1 (oneCopy .pending)
      = some { result := .ok, body := [1, 0, 0, 0, 3, 0, 5, 0, 0, 0, 0, 0, 0] }
      ∧ (after (.peek 1 []) (oneCopy .pending)).store = (oneCopy .pending).store := by decide +kernel

theorem test_ack_retires_the_record :
    answer (.ack 1 [0, 0]) 1 (oneCopy .taken) = some { result := .ok, body := [6, 1] }
      ∧ ((after (.ack 1 [0, 0]) (oneCopy .taken)).slot 0).generation = 1 := by decide +kernel

theorem test_ack_of_an_overdue_copy_escalates :
    answer (.ack 1 [0, 0]) 1 (oneCopy .overdue) = some { result := .late, body := [7, 0] } := by decide +kernel

theorem test_detail_reports_the_copies :
    answer (.detail 1 [0, 0, 1]) 1
      (put 0 3 .line (only 1 { state := .taken, deadline := some 155, grace := none, escalation := true }) base)
      = some
        { result := .ok
          body := [0, 0, 0, 255, 255, 255, 255, 0x83, 0, 154, 255, 255, 0, 255, 255, 255, 255, 0, 255, 255, 255, 255] } := by
  decide +kernel

theorem test_post_reserves_a_receipt :
    answer (.post 2 [40, 1, 2, 1]) 2 base = some { result := .ok, body := [0, 0] }
      ∧ ((after (.post 2 [40, 1, 2, 1]) base).postUnit 2).reservations = 1 := by decide +kernel

theorem test_post_without_room :
    answer (.post 2 [40, 1, 2, 1]) 2 (full base) = some { result := .noroom, body := [] } := by decide +kernel

/-- A receipt of mailbox 40, retired DONE at time 258. -/
def aReceipt : Receipt := { generation := 7, slot := 9, source := 40, outcome := .done, time := 258 }

/-- H2 with one waiting receipt. -/
def withReceipt : State := base.setPostUnit 2 { receipts := [aReceipt], reservations := 0 }

theorem test_receipt_is_read_once :
    answer (.receipt 2 []) 2 withReceipt = some { result := .ok, body := [7, 9, 40, 1, 0, 0, 1, 2] }
      ∧ ((after (.receipt 2 []) withReceipt).postUnit 2).receipts = [] := by decide +kernel

theorem test_route_read_reports_the_entry :
    answer (.routeRead 1 [3]) 1 base
      = some { result := .ok, body := [3, 1, 0, 3, 5, 0, 2, 0, 0, 3, 0, 0, 0, 0, 0xFF] } := by decide +kernel

theorem test_route_write_and_its_refusal :
    ((after (.routeWrite 0 [3, 1, 0, 3, 15, 1, 4, 3, 0xE8, 0xFF, 1, 0]) base).route 3).config
        = { plain with priority := 15, policy := .any, depth := 4, deadline := 1000, deepWake := true }
      ∧ answer (.routeWrite 0 [3, 1, 0, 3, 15, 1, 4, 3, 0xE9, 0xFF, 1, 0]) 0 base
        = some { result := .badarg, body := [] } := by decide +kernel

theorem test_purge_withdraws_and_counts :
    answer (.purge 0 [3]) 0 (oneCopy .pending) = some { result := .ok, body := [1] }
      ∧ ((after (.purge 0 [3]) (oneCopy .pending)).route 3).lastOutcome = .ended .withdrawn := by decide +kernel

theorem test_line_read_reports_the_line :
    answer (.lineRead 1 [3]) 1 base = some { result := .ok, body := [3, 1, 1, 3, 0xFF, 0, 0, 0, 0] } := by decide +kernel

theorem test_line_write_starts_the_qualification_afresh :
    ((after (.lineWrite 0 [3, 2, 0, 15, 0xFF]) base).line 3).qual.firstPending = true
      ∧ ((after (.lineWrite 0 [3, 2, 0, 15, 0xFF]) base).line 3).config.q = 15 := by decide +kernel

theorem test_flushall_empties_the_store :
    answer (.flushall 0 []) 0 (oneCopy .taken) = some { result := .ok, body := [1] }
      ∧ (after (.flushall 0 []) (oneCopy .taken)).record? 0 = none := by decide +kernel

/-- The clock state BACKUP with a stable reference. -/
def backup : State := { up with clock := { up.clock with state := .backup, refPresent := true, stability := 4000 } }

theorem test_restore_needs_a_stable_reference :
    (after (.restore 0 []) backup).clock.state = .ref
      ∧ answer (.restore 0 []) 0 { backup with clock := { backup.clock with stability := 3999 } }
        = some { result := .notready, body := [] } := by decide +kernel

/-- A record of line 3 in slot 0 with a copy in state `x` for H1 whose deadline count is `d`. -/
def timed (x : CopyState) (d : Nat) : State :=
  put 0 3 .line (only 1 { state := x, deadline := some d, grace := none, escalation := false }) base

theorem test_a_millisecond_lowers_a_running_deadline :
    ((after .millisecondTick (timed .taken 7)).copy? 0 1).map (fun c => c.deadline) = some (some 6)
      ∧ (after .millisecondTick (timed .taken 7)).clock.timebase = 1 := by decide +kernel

/-- Line 3 two samples into a change to 1 (Table 6-4's Q of 3). -/
def nearEdge : State :=
  base.setLine 3 { base.line 3 with
    qual := { lastSample := true, level := false, disagreement := 2, firstPending := false } }

theorem test_the_third_sample_qualifies_and_raises :
    ((after (.sampleTick .us100 8 []) nearEdge).record? 0).map (fun r => r.source) = some 3
      ∧ ((after (.sampleTick .us100 8 []) nearEdge).line 3).qual.level = true := by decide +kernel

theorem test_a_deadline_expiry_makes_a_taken_copy_overdue :
    ((after (.deadlineExpiry 0 1) (timed .taken 0)).copy? 0 1).map (fun c => (c.state, c.grace))
      = some (.overdue, some 40) := by decide +kernel

/-- A record of line 3 in slot 0 with an OVERDUE copy for H1 whose grace count is 0. -/
def graceDue : State :=
  put 0 3 .line (only 1 { state := .overdue, deadline := none, grace := some 0, escalation := false }) base

theorem test_a_grace_expiry_loses_the_host :
    ((after (.graceExpiry 0 1) graceDue).host 1).state = .lost
      ∧ ((after (.graceExpiry 0 1) graceDue).deliv 1).stack = [] := by decide +kernel

theorem test_a_wake_timer_expiry_loses_the_host :
    ((after (.wakeTimerExpiry 1) (withHost 1 .waking (some 0) base)).host 1).state = .lost := by decide +kernel

theorem test_a_rising_edge_makes_the_reference_present :
    (after .refclkRisingEdge up).clock.refPresent = true := by decide +kernel

theorem test_a_loss_in_ref_raises_reflost :
    (after .lossDetection (withRoute 28 { plain with depth := 1 }
      { up with clock := { up.clock with state := .ref, refPresent := true } })).clock.state = .backup := by decide +kernel

theorem test_stability_leaves_start :
    (after .stabilityReached { up with clock := { up.clock with refPresent := true } }).clock.state = .ref := by decide +kernel

/-! ## Witnesses: the hypotheses of each statement can be met

`meets_<Statement>` shows, clause by clause, a state and operands that meet the hypotheses together; a hypothesis that only names a
value (`w = s.returnToRun p` and the like) is met by that value. -/

theorem meets_ReadAnswersReadBack :
    (base.route 3).config.inRange ∧ ((withRoute 3 { plain with priority := 15, depth := 4, deadline := 1000 } base).route
      3).config.inRange ∧ (base.line 0).config.inRange := by unfold RouteConfig.inRange LineConfig.inRange; decide +kernel

theorem meets_EmptyQueuePassesOneCycle : base.pending = [] := rfl

/-- Port 1 with a TAKE frame received. -/
def taking : State := after (.requestTransaction 1 [0x20, 0x00, 0xAE]) base

/-- Port 1 with its TAKE carried out. -/
def taken : State := after (.take 1 []) taking

/-- Just after a reset that cut into a transaction of port 1. -/
def cutInto : State := after resetDuring base

theorem meets_RequestsAreJudged :
    (cutInto.port 1).ignoring = true ∧ (cutInto.port 2).ignoring = false ∧ (taking.port 1).ignoring = false
    ∧ (taking.port 1).executing = true ∧ (base.port 1).executing = false ∧ (base.port 1).ignoring = false
    ∧ requestIsBad [0x20, 0x00] ∧ requestIsBad (0x20 :: 25 :: List.replicate 26 0) ∧ requestIsBad [0x20, 0x00, 0xAF]
    ∧ requestIsBad [0x20, 0x01, 0xAE] ∧ ¬ requestIsBad [0x7F, 0x00, crc8 [0x7F, 0x00]] ∧ cmdOf 0x7F = none
    ∧ ¬ requestIsBad [0x20, 0x00, 0xAE] ∧ cmdOf 0x20 = some .take := by unfold requestIsBad; decide +kernel

/-- H1 in DEEP with a PARKED copy, and H1 in WAKING. -/
def deep : State := withHost 1 .deep none (oneCopy .parked)

def waking : State := withHost 1 .waking (some 500) (oneCopy .pending)

theorem meets_SleepingHostReturnsToRun :
    (base.host 1).state ≠ .deep ∧ (base.host 1).state ≠ .waking ∧ (deep.host 1).state = .deep
    ∧ (waking.host 1).state = .waking := by decide +kernel

theorem meets_CompletionPlacesTheAnswer :
    (taken.port 1).execution = .answered { result := .none, body := [] } ∧ (base.port 1).execution = .idle
    ∧ (taking.port 1).execution = .received .take [] := by decide +kernel

theorem meets_RowIsItsRequestAndCompletion :
    (base.port 1).execution = .idle ∧ (List.replicate 24 (0 : Byte)).length ≤ 24
    ∧ base.ready 1 .take (List.replicate 25 0) = false ∧ taking.ready 1 .peek [] = false
    ∧ taken.ready 1 .take [] = false ∧ (cutInto.port 1).execution = .idle ∧ cutInto.ready 1 .ident [] = false := by decide +kernel

theorem meets_FetchDrivesTheResponse :
    (base.port 1).ignoring = false ∧ (cutInto.port 1).ignoring = true
    ∧ (base.port 1).executing = false ∧ (base.port 1).buffer = none ∧ (base.host 1).state = .run
    ∧ (base.deliv 1).attnLine = false ∧ ([0, 0] : List Byte).length = 2 := by decide +kernel

/-- H1 not attached. -/
def absent : State := withHost 1 .offline none base

theorem meets_UnattachedHostsAreAnsweredState :
    absent.ready 1 .take [] = true ∧ absent.usable 1 = false
    ∧ Cmd.take ≠ .attach ∧ Cmd.take ≠ .status ∧ Cmd.take ≠ .ident := by decide +kernel

theorem meets_WrongBodyLengthIsBadarg :
    base.ready 1 .take [0] = true ∧ (base.returnToRun 1).usable 1 = true
    ∧ ([0] : List Byte).length ≠ bodyLength .take ∧ base.ready 0 .flushall [0] = true ∧ base.administrator = 0
    ∧ ([0] : List Byte).length ≠ bodyLength .flushall ∧ absent.ready 1 .ident [0] = true
    ∧ ([0] : List Byte).length ≠ bodyLength .ident := by decide +kernel

theorem meets_IdentAndStatusAnswer :
    State.reset.ready 1 .ident [] = true ∧ taking.ready 2 .status [1] = true := by decide +kernel

/-- H1 LOST. -/
def lostHost : State := withHost 1 .lost none base

theorem meets_AttachOpensASession :
    absent.ready 1 .attach [0, 0, 0, 1, 0] = true ∧ absent.ready 1 .attach [3, 0xE9, 3, 0xE8, 1] = true
    ∧ (absent.returnToRun 1).host 1 = absent.host 1 ∧ (absent.host 1).state = .offline
    ∧ lostHost.ready 1 .attach [0, 1, 3, 0xE8, 1] = true ∧ ((lostHost.returnToRun 1).host 1).state = .lost
    ∧ base.ready 1 .attach [3, 0xE8, 0, 1, 0] = true ∧ ((base.returnToRun 1).host 1).state = .run
    ∧ (3 : Byte).toNat * 256 + (0xE8 : Byte).toNat = 1000 ∧ (3 : Byte).toNat * 256 + (0xE9 : Byte).toNat = 1001 := by decide +kernel

theorem meets_DetachAndFreshCleanUp :
    (oneCopy .taken).ready 1 .detach [] = true ∧ ((oneCopy .taken).returnToRun 1).usable 1 = true
    ∧ (((oneCopy .taken).returnToRun 1).deliv 1).stack ≠ [] ∧ deep.ready 1 .detach [] = true
    ∧ (deep.returnToRun 1).usable 1 = true ∧ ((deep.returnToRun 1).deliv 1).stack = []
    ∧ deep.ready 1 .attach [0, 1, 3, 0xE8, 1] = true ∧ ((deep.returnToRun 1).host 1).state = .run := by decide +kernel

/-- H1 held as not usable with a STALE copy, and with a TAKEN one. -/
def leaving (x : CopyState) : State := withHost 1 .offline none (put 0 3 .line
  (fun h => if h = 1 then some (copyIn x) else if h = 2 then some (copyIn .pending) else none) base)

/-- A record of source 25, which has no fallback host, with copies for H1, held as not usable, and H2. -/
def leavingGroup : State := withHost 1 .offline none (put 0 25 (.group [1] true)
  (fun h => if h = 1 ∨ h = 2 then some (copyIn .pending) else none) base)

/-- H1 held as not usable with a PENDING copy of a deep-wake record, whose fallback host H3 is in DEEP. -/
def leavingAsleep : State := withHost 1 .offline none (put 0 3 .line (only 1 (copyIn .pending))
  (withRoute 3 { plain with fallback := some 3, deepWake := true } (withHost 3 .deep none base)))

/-- What an escalation of the record in slot 0 asks of it, with its deep-wake flag. -/
def escalation (s : State) : Option (Option HostId × Bool × Bool × Policy × Bool) :=
  (s.record? 0).map (fun r => (r.fallback, r.escalated, r.purged, r.policy, r.deepWake))

theorem meets_CleanupEndsTheHostsPart :
    (leaving .stale).usable 1 = false ∧ (leaving .stale).copy? 0 1 = some (copyIn .stale)
    ∧ (copyIn .stale).state.terminal = false
    ∧ (((leaving .stale).cleanup 1).slot 0).generation = ((leaving .stale).slot 0).generation
    ∧ (leaving .taken).usable 1 = false ∧ (leaving .taken).copy? 0 1 = some (copyIn .taken)
    ∧ (((leaving .taken).cleanup 1).slot 0).generation = ((leaving .taken).slot 0).generation
    ∧ escalation (leaving .taken) = some (some 3, false, false, .all, false) ∧ (leaving .taken).usable 3 = true
    ∧ (leaving .taken).copy? 0 3 = none ∧ leavingAsleep.usable 1 = false
    ∧ leavingAsleep.copy? 0 1 = some (copyIn .pending)
    ∧ escalation leavingAsleep = some (some 3, false, false, .all, true) ∧ leavingAsleep.usable 3 = true
    ∧ leavingAsleep.copy? 0 3 = none ∧ (leavingAsleep.host 3).state = .deep
    ∧ escalation leavingGroup = some (none, false, false, .all, false)
    ∧ leavingGroup.usable 1 = false ∧ (leavingGroup.copy? 0 2).isSome = true := by and_intros <;> decide +kernel

/-- A deep-wake record offered to H1. -/
def deepWakeOffered : State :=
  put 0 3 .line (only 1 (copyIn .pending)) (withRoute 3 { plain with deepWake := true } base)

theorem meets_PowerIsChecked :
    base.ready 1 .power [2] = true ∧ base.ready 1 .power [0] = true ∧ (base.returnToRun 1).usable 1 = true
    ∧ (oneCopy .taken).ready 1 .power [1] = true ∧ ((oneCopy .taken).returnToRun 1).usable 1 = true
    ∧ (((oneCopy .taken).returnToRun 1).deliv 1).stack ≠ [] ∧ deepWakeOffered.ready 1 .power [1] = true
    ∧ (deepWakeOffered.returnToRun 1).usable 1 = true ∧ ((deepWakeOffered.returnToRun 1).deliv 1).stack = []
    ∧ 0 ∈ ((deepWakeOffered.returnToRun 1).deliv 1).queue ∧ (deepWakeOffered.returnToRun 1).isPending 1 0 = true
    ∧ ((deepWakeOffered.returnToRun 1).record? 0).map (fun r => r.deepWake) = some true := by decide +kernel

theorem meets_PowerDeepParksTheCopies :
    (oneCopy .pending).ready 1 .power [1] = true ∧ ((oneCopy .pending).returnToRun 1).usable 1 = true
    ∧ (((oneCopy .pending).returnToRun 1).deliv 1).stack = []
    ∧ ((oneCopy .pending).returnToRun 1).isPending 1 0 = true
    ∧ ∀ i r, ((oneCopy .pending).returnToRun 1).record? i = some r → r.deepWake = false := ⟨by decide +kernel, by decide +kernel, by decide +kernel, by decide +kernel, of_every_record (by decide +kernel)⟩

theorem meets_LevelReplacesBothValues :
    absent.ready 1 .level [0, 0] = true ∧ (absent.returnToRun 1).usable 1 = false ∧ base.ready 1 .level [16, 0] = true
    ∧ base.ready 1 .level [0, 2] = true ∧ base.ready 1 .level [0] = true ∧ base.ready 1 .level [15, 1] = true
    ∧ (base.returnToRun 1).usable 1 = true := by decide +kernel

/-- H1's stack full, and H1 with the offered record below its threshold. -/
def stackFull : State := (oneCopy .pending).setDeliv 1 { (oneCopy .pending).deliv 1 with stack := [1, 2, 3, 4] }

def belowThreshold : State := (oneCopy .pending).setDeliv 1 { (oneCopy .pending).deliv 1 with threshold := 5 }

theorem meets_TakeMovesTheHead :
    stackFull.ready 1 .take [] = true ∧ (stackFull.returnToRun 1).usable 1 = true
    ∧ 4 ≤ ((stackFull.returnToRun 1).deliv 1).stack.length ∧ base.ready 1 .take [] = true
    ∧ (base.returnToRun 1).usable 1 = true ∧ (base.returnToRun 1).head? 1 = none
    ∧ (belowThreshold.returnToRun 1).head? 1 = some 0
    ∧ ((belowThreshold.returnToRun 1).record? 0).map (fun r => r.priority) = some 5
    ∧ ((belowThreshold.returnToRun 1).deliv 1).threshold = 5 ∧ (deep.returnToRun 1).head? 1 = some 0
    ∧ ((deep.returnToRun 1).copy? 0 1).isSome = true ∧ ((deep.returnToRun 1).deliv 1).threshold < 5
    ∧ ((deep.returnToRun 1).deliv 1).runningLevel < 5 := by decide +kernel

theorem meets_AttentionFallsAtTake :
    (oneCopy .pending).DeliveryAgrees ∧ (oneCopy .pending).ready 1 .take [] = true
    ∧ ((oneCopy .pending).returnToRun 1).usable 1 = true
    ∧ (((oneCopy .pending).returnToRun 1).deliv 1).stack.length < 4
    ∧ ((oneCopy .pending).returnToRun 1).head? 1 = some 0 ∧ ((oneCopy .pending).returnToRun 1).aboveGate 1 0 = true := by decide +kernel

theorem meets_PeekReportsTheHead :
    (absent.returnToRun 1).usable 1 = false ∧ absent.ready 1 .peek [] = true ∧ base.ready 1 .peek [0] = true
    ∧ (base.returnToRun 1).usable 1 = true ∧ base.ready 1 .peek [] = true ∧ (base.returnToRun 1).head? 1 = none
    ∧ (oneCopy .pending).ready 1 .peek [] = true ∧ ((oneCopy .pending).returnToRun 1).head? 1 = some 0
    ∧ (((oneCopy .pending).returnToRun 1).record? 0).isSome = true := by decide +kernel

/-- A record of each kind in slot 4 with a copy for H1. -/
def ofKind (n : SourceId) (k : Particulars) : State := put 4 n k (only 1 (copyIn .pending)) base

/-- The particulars of the record in slot 4, where H1 holds a copy of it. -/
def kindAt (s : State) : Option Particulars :=
  match s.record? 4 with
  | none => none
  | some r => if (r.copy 1).isSome then some r.particulars else none

theorem meets_SummaryListsTheRecord :
    kindAt (ofKind 3 .line) = some .line ∧ kindAt (ofKind 25 (.group [1, 2] true)) = some (.group [1, 2] true)
    ∧ kindAt (ofKind 28 (.system none)) = some (.system none)
    ∧ kindAt (ofKind 29 (.system (some 3))) = some (.system (some 3))
    ∧ kindAt (ofKind 40 (.posted 0xFFFF 2 .void)) = some (.posted 0xFFFF 2 .void) := by decide +kernel

theorem meets_AckEndsNothing :
    base.ready 1 .ack [0, 48] = true ∧ (base.returnToRun 1).usable 1 = true
    ∧ (∀ i : SlotId, i.val = (48 : Byte).toNat →
        (base.returnToRun 1).record? i = none ∨ ((base.returnToRun 1).slot i).generation ≠ 0)
    ∧ (∀ i : SlotId, i.val = (0 : Byte).toNat →
        (oneCopy .pending).record? i = none ∨ ((oneCopy .pending).slot i).generation ≠ 1)
    ∧ (((oneCopy .pending).returnToRun 2).copy? 0 2) = none ∧ ((oneCopy .pending).slot 0).generation = 0
    ∧ ((oneCopy .pending).returnToRun 2).usable 2 = true
    ∧ ((oneCopy .pending).copy? 0 1) = some (copyIn .pending) ∧ ((oneCopy .expired).copy? 0 1) = some (copyIn .expired)
    ∧ (stackFull.setCopy 0 1 (copyIn .taken)).copy? 0 1 = some (copyIn .taken)
    ∧ ((stackFull.setCopy 0 1 (copyIn .taken)).deliv 1).stack.head? ≠ some 0 := by decide +kernel

/-- A record under ANY in service with H1 and with H0. -/
def anyTaken : State := put 0 3 .line (fun h => if h = 0 ∨ h = 1 then some (copyIn .taken) else none)
  (withRoute 3 { plain with policy := .any } base)

theorem meets_AckEndsTheTopCopy :
    (oneCopy .taken).ready 1 .ack [0, 0] = true ∧ ((oneCopy .taken).returnToRun 1).usable 1 = true
    ∧ ((oneCopy .taken).returnToRun 1).copy? 0 1 = some (copyIn .taken)
    ∧ (((oneCopy .taken).returnToRun 1).slot 0).generation = 0
    ∧ (((oneCopy .taken).returnToRun 1).deliv 1).stack = [0]
    ∧ ((oneCopy .overdue).returnToRun 1).copy? 0 1 = some (copyIn .overdue)
    ∧ (((oneCopy .overdue).returnToRun 1).deliv 1).stack = [0]
    ∧ ((oneCopy .stale).returnToRun 1).copy? 0 1 = some (copyIn .stale)
    ∧ (((oneCopy .stale).returnToRun 1).deliv 1).stack = [0]
    ∧ anyTaken.ready 1 .ack [0, 0] = true ∧ (anyTaken.returnToRun 1).usable 1 = true
    ∧ ((anyTaken.returnToRun 1).record? 0).map (fun r => r.policy) = some .any
    ∧ ((anyTaken.returnToRun 1).slot 0).generation = 0
    ∧ (anyTaken.returnToRun 1).copy? 0 1 = some (copyIn .taken) ∧ ((anyTaken.returnToRun 1).deliv 1).stack = [0]
    ∧ answer (.ack 1 [0, 0]) 1 anyTaken = some { result := .ok, body := [6, 0] } := by decide +kernel

/-- Line 3 in HIGH with its level active and its route disabled at depth 1. -/
def activeLevel : State :=
  withRoute 3 { plain with enabled := false, depth := 1 } ((withLine 3 .high none base).setLine 3
    { config := { mode := .high, period := .us100, q := 3, group := none }
      qual := { lastSample := true, level := true, disagreement := 0, firstPending := false } })

/-- The same with the route enabled, and one record of the line with H1's copy in state `x`. -/
def levelCopy (x : CopyState) : State :=
  put 0 3 .line (only 1 (copyIn x)) (withRoute 3 { plain with depth := 1 } activeLevel)

/-- A finished record of the active level line, while group G1 waits. -/
def retiringLevel : State :=
  { levelCopy .acked with waitList := [{ source := 25, pendingCount := 1, members := [12], repeats := 0 }] }

theorem meets_FinishedRecordsRetire :
    (oneCopy .taken).copy? 0 1 = some (copyIn .taken) ∧ CopyState.taken.terminal = false
    ∧ ((oneCopy .acked).record? 0).map (fun r => r.finished) = some true ∧ (oneCopy .acked).waitList = []
    ∧ ((oneCopy .acked).line 3).config.mode.isActive ((oneCopy .acked).line 3).qual.level = false
    ∧ ((ofKind 40 (.posted 1 2 .reserved)).record? 4).map (fun r => r.particulars) = some (.posted 1 2 .reserved)
    ∧ (retiringLevel.record? 0).map (fun r => r.finished) = some true ∧ retiringLevel.waitList ≠ []
    ∧ lineOfSource 3 = some 3
    ∧ (retiringLevel.line 3).config.mode.isActive (retiringLevel.line 3).qual.level = true
    ∧ (retiringLevel.line 3).qual.firstPending = false
    ∧ (retiringLevel.record? 0).map (fun r => ((retiringLevel.closeRecord 0 r).handoff.route 3).liveCount) = some 0 := by decide +kernel

/-- R15: the source that waits takes the freed slot, and the re-arm of the level line the next one. -/
theorem test_the_handoff_comes_before_the_level_recheck :
    ((retiringLevel.judge 0).record? 0).map (fun r => r.source) = some 25
    ∧ ((retiringLevel.judge 0).record? 1).map (fun r => r.source) = some 3 := by decide +kernel

/-- A record under `policy` with copies in the two states for H0 and H1, and H3's escalation copy ACKED where H1 is covered. -/
def judged (policy : Policy) (a b : CopyState) (covered : Bool) : Record :=
  { State.reset.newRecord 3 .line false 0 with
    policy := policy
    covered := if covered then some 1 else none
    copies := vof (fun h =>
      if h = 0 then some (copyIn a)
      else if h = 1 then some (copyIn b)
      else if h = 3 ∧ covered = true then some { copyIn .acked with escalation := true }
      else none) }

theorem meets_OutcomesFollowTheTable :
    (judged .any .acked .withdrawn false).copy 0 = some (copyIn .acked)
    ∧ (judged .any .acked .withdrawn false).policy = .any ∧ (judged .all .acked .expired true).policy = .all
    ∧ (judged .all .acked .expired true).outcome = .done ∧ (judged .all .acked .expired false).outcome = .partially
    ∧ (judged .any .withdrawn .expired false).outcome = .expired := by decide +kernel

theorem meets_EscalationCopiesTheFallback :
    ((oneCopy .overdue).record? 0).map (fun r => (r.fallback, r.escalated, r.purged, r.policy)) = some (some 3, false, false, .all)
    ∧ (oneCopy .overdue).usable 3 = true ∧ (oneCopy .overdue).copy? 0 3 = none
    ∧ ((ofKind 25 (.group [1] true)).record? 4).map (fun r => r.fallback) = some none := by decide +kernel

/-- Line 3 waiting with a pending count of 2 at the head, and its route's state. -/
def waitingLine (c : RouteConfig) : State :=
  { withRoute 3 c base with waitList := [{ source := 3, pendingCount := 2, members := [], repeats := 4 }] }

theorem meets_HandoffServesTheWaitList :
    ((waitingLine { plain with enabled := false }).route 3).config.enabled = false
    ∧ ((waitingLine plain).route 3).liveCount < ((waitingLine plain).route 3).config.depth
    ∧ NoRecipient (waitingLine { plain with targets := 0 }) { plain with targets := 0 }
    ∧ Recipients (waitingLine plain) plain [0, 1] false ∧ LowestFree (waitingLine plain) 0 ∧ isSystem 3 = false
    ∧ (waitingLine plain).store.generalLive < 44 := by unfold NoRecipient Recipients LowestFree; decide +kernel

theorem meets_DetailReportsTheRecord :
    absent.ready 1 .detail [0, 0, 0] = true ∧ (absent.returnToRun 1).usable 1 = false
    ∧ base.ready 1 .detail [0, 0, 2] = true ∧ base.ready 1 .detail [0, 48, 1] = true
    ∧ (base.returnToRun 1).usable 1 = true
    ∧ (∀ i : SlotId, i.val = (48 : Byte).toNat → (base.returnToRun 1).record? i = none)
    ∧ (ofKind 3 .line).ready 1 .detail [0, 4, 0] = true ∧ (ofKind 3 .line).ready 1 .detail [0, 4, 1] = true
    ∧ ((ofKind 3 .line).returnToRun 1).usable 1 = true ∧ (((ofKind 3 .line).returnToRun 1).record? 4).isSome = true
    ∧ (((ofKind 3 .line).returnToRun 1).slot 4).generation = 0 := by decide +kernel

theorem meets_ReadsReportTheEntry :
    absent.ready 1 .routeRead [0] = true ∧ absent.ready 1 .lineRead [0] = true ∧ (absent.returnToRun 1).usable 1 = false
    ∧ base.ready 1 .routeRead [64] = true ∧ base.ready 1 .routeRead [63] = true ∧ base.ready 1 .lineRead [24] = true
    ∧ base.ready 1 .lineRead [23] = true ∧ (base.returnToRun 1).usable 1 = true := by decide +kernel

theorem meets_PostMakesARecord :
    base.ready 2 .post [byte (40 : SourceId).val, 1, 2, 1] = true ∧ (base.returnToRun 2).usable 2 = true
    ∧ ((base.returnToRun 2).route 40).config.enabled = true
    ∧ hostIn ((base.returnToRun 2).route 40).config.posters 2 = true
    ∧ ((base.returnToRun 2).route 40).liveCount < ((base.returnToRun 2).route 40).config.depth
    ∧ ((base.returnToRun 2).postUnit 2).receipts.length + ((base.returnToRun 2).postUnit 2).reservations < 8
    ∧ Recipients (base.returnToRun 2) ((base.returnToRun 2).route 40).config [0, 1] false
    ∧ (base.returnToRun 2).store.generalLive < 44 ∧ LowestFree (base.returnToRun 2) 0 := by unfold Recipients LowestFree; decide +kernel

theorem meets_PostIsRefusedInOrder :
    base.ready 2 .post [31, 0, 0, 0] = true ∧ base.ready 2 .post [64, 0, 0, 0] = true
    ∧ base.ready 2 .post [32, 0, 0, 1] = true ∧ (base.returnToRun 2).usable 2 = true ∧ (base.route 32).config.enabled = false
    ∧ (base.route 40).config.enabled = true
    ∧ hostIn ((withRoute 40 { plain with posters := 1 } base).route 40).config.posters 2 = false
    ∧ hostIn (base.route 40).config.posters 2 = true
    ∧ ((withRoute 40 { plain with posters := 15, depth := 1 } (ofKind 40 (.posted 0 2 .none))).route 40).config.depth
        ≤ ((withRoute 40 { plain with posters := 15, depth := 1 } (ofKind 40 (.posted 0 2 .none))).route 40).liveCount
    ∧ 8 ≤ ((base.setPostUnit 2 { receipts := [], reservations := 8 }).postUnit 2).reservations
    ∧ NoRecipient base { plain with targets := 0, posters := 15 }
    ∧ Recipients (full base) ((full base).route 40).config [0, 1] false ∧ 44 ≤ (full base).store.generalLive := by unfold NoRecipient Recipients; decide +kernel

theorem meets_ReceiptReturnsTheOldest :
    absent.ready 1 .receipt [] = true ∧ (absent.returnToRun 1).usable 1 = false ∧ base.ready 1 .receipt [0] = true
    ∧ (base.returnToRun 1).usable 1 = true ∧ ((base.returnToRun 1).postUnit 1).receipts = []
    ∧ withReceipt.ready 2 .receipt [] = true ∧ (withReceipt.returnToRun 2).usable 2 = true
    ∧ ((withReceipt.returnToRun 2).postUnit 2).receipts = [aReceipt] := by decide +kernel

theorem meets_RouteWriteReplacesEveryField :
    base.ready 0 .routeWrite (routeWriteBody 3 plain) = true ∧ (base.returnToRun 0).usable 0 = true ∧ plain.inRange
    ∧ ((base.returnToRun 0).route 3).config.owner = 0 ∧ (base.returnToRun 0).administrator = 0
    ∧ ({ plain with depth := 1 } : RouteConfig).owner = (base.returnToRun 0).administrator ∧ isSystem 28 = true
    ∧ activeLevel.ready 0 .routeWrite (routeWriteBody 3 { plain with depth := 1 }) = true
    ∧ (activeLevel.line 3).config.mode.isLevel = true
    ∧ (activeLevel.line 3).config.mode.isActive (activeLevel.line 3).qual.level = true
    ∧ (activeLevel.line 3).qual.firstPending = false ∧ (activeLevel.route 3).config.enabled = false
    ∧ (activeLevel.route 3).liveCount = 0 := by unfold RouteConfig.inRange; decide +kernel

theorem meets_RouteWriteIsRefusedInOrder :
    base.ready 0 .routeWrite (64 :: (routeWriteBody 3 plain).tail) = true ∧ (base.returnToRun 0).usable 0 = true
    ∧ base.ready 1 .routeWrite (routeWriteBody 3 plain) = true ∧ (base.returnToRun 1).usable 1 = true
    ∧ (base.route 3).config.owner ≠ 1 ∧ base.administrator ≠ 1
    ∧ base.ready 0 .routeWrite (routeWriteBody 3 { plain with priority := 16 }) = true
    ∧ base.ready 0 .routeWrite (routeWriteBody 31 { plain with posters := 1, depth := 1 }) = true
    ∧ ({ plain with posters := 1, depth := 1 } : RouteConfig).inRange
    ∧ base.ready 0 .routeWrite (routeWriteBody 28 plain) = true ∧ isSystem 28 = true ∧ plain.depth ≠ 1 ∧ plain.inRange
    ∧ activeLevel.ready 0 .routeWrite (routeWriteBody 3 plain) = true ∧ lineOfSource 3 = some 3
    ∧ (activeLevel.line 3).config.mode.isLevel = true ∧ 1 < plain.depth := by unfold RouteConfig.inRange; decide +kernel

theorem meets_PurgeWithdrawsTheSource :
    base.ready 0 .purge [64] = true ∧ (base.returnToRun 0).usable 0 = true ∧ base.ready 1 .purge [63] = true
    ∧ (base.returnToRun 1).usable 1 = true ∧ ((base.returnToRun 1).route 63).config.owner ≠ 1
    ∧ (base.returnToRun 1).administrator ≠ 1 ∧ (oneCopy .taken).ready 0 .purge [3] = true
    ∧ ((oneCopy .taken).returnToRun 0).usable 0 = true ∧ (((oneCopy .taken).returnToRun 0).route 3).config.owner = 0
    ∧ (((oneCopy .taken).returnToRun 0).record? 0).map (fun r => r.source) = some 3
    ∧ ((oneCopy .taken).returnToRun 0).copy? 0 1 = some (copyIn .taken)
    ∧ (oneCopy .pending).ready 0 .purge [3] = true ∧ ((oneCopy .pending).returnToRun 0).usable 0 = true
    ∧ ((oneCopy .pending).returnToRun 0).copy? 0 1 = some (copyIn .pending)
    ∧ (∀ h, h ≠ 1 → ((oneCopy .pending).returnToRun 0).copy? 0 h = none)
    ∧ ((ofKind 25 (.group [1] true)).returnToRun 0).usable 0 = true ∧ (ofKind 25 (.group [1] true)).ready 0 .purge [3] = true
    ∧ (((ofKind 25 (.group [1] true)).returnToRun 0).record? 4).map (fun r => r.source) = some 25
    ∧ lineOfSource 3 = some 3
    ∧ (((oneCopy .taken).returnToRun 0).line 3).config.mode.isActive (((oneCopy .taken).returnToRun 0).line 3).qual.level
        = false
    ∧ (waitingLine plain).ready 0 .purge [3] = true ∧ ((waitingLine plain).returnToRun 0).usable 0 = true
    ∧ (∃ e ∈ ((waitingLine plain).returnToRun 0).waitList, e.source = 3)
    ∧ ((activeLevel.returnToRun 0).line 3).config.mode.isActive ((activeLevel.returnToRun 0).line 3).qual.level = true
    ∧ (∀ i, (activeLevel.returnToRun 0).record? i = none) := by and_intros <;> decide +kernel

/-- A line configuration in group G1. -/
def grouped : LineConfig := { mode := .fall, period := .us10, q := 15, group := some 1 }

/-- Lines 8 to 15 in group G1. -/
def fullGroup : State := ([8, 9, 10, 11, 12, 13, 14, 15] : List LineId).foldl (fun s n => withLine n .rise (some 1) s) base

theorem meets_LineWriteReplacesTheLine :
    base.ready 0 .lineWrite (lineWriteBody 3 grouped) = true ∧ (base.returnToRun 0).usable 0 = true ∧ grouped.inRange
    ∧ ((base.returnToRun 0).route (lineSource 3)).config.owner = 0 ∧ (base.returnToRun 0).administrator = 0
    ∧ grouped.mode.isLevel = false ∧ ((base.returnToRun 0).members 1).length < 8
    ∧ base.ready 0 .lineWrite (lineWriteBody 5 { grouped with mode := .low, q := 1, group := none }) = true
    ∧ ((base.returnToRun 0).route (lineSource 5)).config.depth ≤ 1 := by unfold LineConfig.inRange; decide +kernel

theorem meets_LineWriteIsRefusedInOrder :
    base.ready 0 .lineWrite [24, 1, 1, 3, 0xFF] = true ∧ (base.returnToRun 0).usable 0 = true
    ∧ base.ready 1 .lineWrite [3, 1, 1, 3, 0xFF] = true ∧ (base.returnToRun 1).usable 1 = true
    ∧ (base.route (lineSource 3)).config.owner ≠ 1 ∧ base.administrator ≠ 1
    ∧ base.ready 0 .lineWrite [3, 1, 1, 3, 4] = true
    ∧ (withRoute 3 { plain with owner := 1 } base).ready 1 .lineWrite (lineWriteBody 3 grouped) = true
    ∧ ((withRoute 3 { plain with owner := 1 } base).route (groupSource 1)).config.owner ≠ 1
    ∧ base.ready 0 .lineWrite [3, 6, 1, 3, 0xFF] = true ∧ base.ready 0 .lineWrite [3, 1, 1, 16, 0xFF] = true
    ∧ base.ready 0 .lineWrite (lineWriteBody 3 { grouped with mode := .high }) = true
    ∧ (grouped.inRange ∧ Mode.high.isLevel = true ∧ 1 < (base.route (lineSource 3)).config.depth)
    ∧ fullGroup.ready 0 .lineWrite (lineWriteBody 3 grouped) = true ∧ 8 ≤ ((fullGroup.returnToRun 0).members 1).length
    ∧ grouped.group ≠ ((fullGroup.returnToRun 0).line 3).config.group := by unfold LineConfig.inRange; decide +kernel

theorem meets_FlushallEmptiesTheStore :
    (levelCopy .stale).CountsAgree ∧ (levelCopy .stale).RoutesLegal ∧ (levelCopy .stale).ready 0 .flushall [] = true
    ∧ ((levelCopy .stale).returnToRun 0).usable 0 = true ∧ ((levelCopy .stale).returnToRun 0).administrator = 0
    ∧ ([3] : List LineId).Pairwise (fun l m => l < m)
    ∧ (∀ l : LineId, l ∈ ([3] : List LineId) ↔ Rearmed ((levelCopy .stale).returnToRun 0) l
        ∧ ¬ NoRecipient ((levelCopy .stale).returnToRun 0) (((levelCopy .stale).returnToRun 0).route (lineSource l)).config)
    ∧ Recipients ((levelCopy .stale).returnToRun 0) (((levelCopy .stale).returnToRun 0).route 3).config [0, 1] false
    ∧ Rearmed (withRoute 3 { plain with targets := 0 } activeLevel) 3
    ∧ NoRecipient (withRoute 3 { plain with targets := 0 } activeLevel) { plain with targets := 0 } := by unfold Rearmed NoRecipient Recipients; decide +kernel

theorem test_flushall_rearms_an_active_level_line :
    ((after (.flushall 0 []) (levelCopy .stale)).record? 0).map (fun r => r.source) = some 3
    ∧ ((after (.flushall 0 []) (levelCopy .stale)).slot 0).generation = 1 := by decide +kernel

theorem meets_RestoreReturnsToRef :
    backup.ready 0 .restore [] = true ∧ (backup.returnToRun 0).usable 0 = true ∧ (backup.returnToRun 0).administrator = 0
    ∧ (backup.returnToRun 0).clock.state = .backup ∧ (backup.returnToRun 0).clock.stability = 4000
    ∧ backup.ready 1 .restore [] = true ∧ base.ready 0 .restore [] = true ∧ base.ready 0 .restore [0] = true := by decide +kernel

/-- Two live records of line 3, the later one in slot 0. -/
def atDepth : State := put 0 3 .line (only 1 (copyIn .taken)) (put 7 3 .line (only 0 (copyIn .pending)) base)

theorem meets_AdmissionWithoutARecord :
    (State.reset.route (RawEvent.line 3).source).config.enabled = false
    ∧ (atDepth.route 3).config.enabled = true ∧ atDepth.waitList = []
    ∧ (atDepth.route 3).config.depth ≤ (atDepth.route 3).liveCount
    ∧ (atDepth.record? 0).map (fun r => (r.source, r.birth)) = some (3, 1)
    ∧ (∀ i r, atDepth.record? i = some r → i ≠ 0 → r.birth < 1)
    ∧ NoRecipient base { plain with targets := 0 } ∧ (base.route 3).liveCount < (base.route 3).config.depth := ⟨by decide +kernel, by decide +kernel, by decide +kernel, by decide +kernel, by decide +kernel,
    of_every_record (by decide +kernel), by unfold NoRecipient; decide +kernel, by decide +kernel⟩

/-- Group G1 waiting with line 12. -/
def waitingGroup : State :=
  { base with waitList := [{ source := 25, pendingCount := 1, members := [12], repeats := 255 }] }

theorem meets_AdmissionIntoWhatStands :
    ((ofKind 25 (.group [1, 2] true)).route (groupSource 1)).config.enabled = true
    ∧ ((ofKind 25 (.group [1, 2] true)).record? 4).map (fun r => (r.source, r.particulars))
        = some (groupSource 1, .group [1, 2] true)
    ∧ (∀ j r, (ofKind 25 (.group [1, 2] true)).record? j = some r → r.source = groupSource 1 → r.isOpen = true → j = 4)
    ∧ (waitingGroup.route (groupSource 1)).config.enabled = true ∧ (∃ e ∈ waitingGroup.waitList, e.source = groupSource 1)
    ∧ (∀ i r, waitingGroup.record? i = some r → r.isOpen = false)
    ∧ ((waitingLine plain).route (lineSource 3)).config.enabled = true
    ∧ ∃ e ∈ (waitingLine plain).waitList, e.source = lineSource 3 := ⟨by decide +kernel, by decide +kernel, of_every_record (by decide +kernel), by decide +kernel, by decide +kernel,
    of_every_record (by decide +kernel), by decide +kernel, by decide +kernel⟩

theorem meets_AdmissionMakesARecordOrWaits :
    (base.route 3).config.enabled = true ∧ base.waitList = [] ∧ isGroup 3 = false
    ∧ (base.route 3).liveCount < (base.route 3).config.depth ∧ Recipients base (base.route 3).config [0, 1] false
    ∧ base.store.generalLive < 44 ∧ LowestFree base 0 ∧ isSystem 3 = false
    ∧ Recipients (full base) ((full base).route 3).config [0, 1] false ∧ 44 ≤ (full base).store.generalLive
    ∧ isSystem 28 = true ∧ Recipients (withRoute 28 { plain with depth := 1 } base) { plain with depth := 1 } [0, 1] false
    ∧ (∀ j r, base.record? j = some r → r.source ≠ 28) := by
  refine ⟨by decide +kernel, by decide +kernel, by decide +kernel, by decide +kernel, ?_, by decide +kernel, ?_,
    by decide +kernel, ?_, by decide +kernel, by decide +kernel, ?_, of_every_record (by decide +kernel)⟩ <;>
  first
  | (unfold Recipients; decide +kernel)
  | (unfold LowestFree; decide +kernel)

/-- Lines 12 and 13 of group G1 two samples into a change to 1, line 3 in HIGH before its first sample, and line 5 in RISE at
period 10 µs. -/
def severalLines : State :=
  let edge : Qualification := { lastSample := true, level := false, disagreement := 2, firstPending := false }
  let rise : LineConfig := { mode := .rise, period := .us100, q := 3, group := some 1 }
  (((activeLevel.setLine 12 { config := rise, qual := edge }).setLine 13 { config := rise, qual := edge }).setLine 5
    { config := { rise with period := .us10, group := none }, qual := edge }).setLine 3
    { config := { rise with mode := .high, group := none }, qual := { edge with firstPending := true } }

theorem meets_SampleTickRaisesItsEvent :
    ((([5, 13, 3] : List LineId).dedup ++ allLines.filter (fun n => decide (n ∉ ([5, 13, 3] : List LineId)))).filter (fun n =>
        decide ((severalLines.line n).config.mode ≠ .off ∧ (severalLines.line n).config.period = .us100))) = [13, 3, 12]
    ∧ (severalLines.line 13).qual.firstPending = false ∧ (severalLines.line 13).qual.level = false
    ∧ (severalLines.line 13).config.q ≤ (severalLines.line 13).qual.disagreement + 1
    ∧ (severalLines.line 3).qual.firstPending = true ∧ (severalLines.route (lineSource 3)).liveCount = 0 := by decide +kernel

/-- R122: the edges of two members at one tick are listed in the order in which they are taken. -/
theorem test_the_order_of_the_row_orders_the_members :
    ((after (.sampleTick .us100 0x3008 [5, 13, 3]) severalLines).record? 0).map (fun r => r.particulars)
      = some (.group [13, 12] true)
    ∧ ((after (.sampleTick .us100 0x3008 []) severalLines).record? 0).map (fun r => r.particulars)
      = some (.group [12, 13] true) := by decide +kernel

theorem meets_DeadlineExpiryEndsTheTime :
    base.copy? 0 1 = none
    ∧ ((timed .pending 0).copy? 0 1).map (fun c => (c.state, c.deadline)) = some (.pending, some 0)
    ∧ ((timed .taken 0).copy? 0 1).map (fun c => (c.state, c.deadline)) = some (.taken, some 0)
    ∧ ((timed .parked 0).copy? 0 1).map (fun c => (c.state, c.deadline)) = some (.parked, some 0) := by decide +kernel

theorem meets_ExpiryLosesTheHost :
    (graceDue.copy? 0 1).map (fun c => (c.state, c.grace)) = some (.overdue, some 0)
    ∧ base.copy? 0 1 = none ∧ ((withHost 1 .waking (some 0) base).host 1).state = .waking
    ∧ ((withHost 1 .waking (some 0) base).host 1).wakeTimer = some 0 ∧ (waking.host 1).wakeTimer ≠ some 0 := by decide +kernel

theorem meets_ReferenceIsSupervised :
    backup.clock.refPresent = true ∧ backup.clock.state ≠ .ref ∧ base.clock.refPresent = false
    ∧ ({ backup.clock with state := .ref } : Clock).refPresent = true := by decide +kernel

/-- A state that meets every invariant: H1 holds a copy in service under an offered one, line 3 is in RISE, and a TAKE by H1 waits. -/
def busy : State :=
  { (put 1 40 (.posted 7 2 .none) (only 1 (copyIn .pending)) (oneCopy .taken)).driveLines with pending := [.take 1 []] }

/-- Every invariant at once, in a state with records in being. -/
theorem meets_the_invariants :
    busy.LinesDriven ∧ busy.RoutesLegal ∧ busy.LinesLegal ∧ busy.WaitListLegal ∧ busy.PoolLegal ∧ busy.DeliveryAgrees
    ∧ busy.RecordsUnfinished ∧ busy.AbsentHostsClear ∧ busy.ReceiptsLegal ∧ busy.ClockLegal := ⟨by decide +kernel, by decide +kernel, by decide +kernel, by decide +kernel, by decide +kernel, by decide +kernel,
    unfinished_of_every_record (of_every_record (by decide +kernel)), by decide +kernel, by decide +kernel, by decide +kernel⟩

/-- A step from the state above answers a next state. -/
theorem meets_a_step : step busy = .next (after (.take 1 []) { busy with pending := [] }) := rfl

end Sys2Proof.Tests
end

section
/-! PROOFS. The outcome of a record at retirement (Table 1-4, R12, R13): what each condition on its copies says, the outcome of each
policy as an equation, and the table's columns read off from them. -/

namespace Sys2Proof.Proofs.OccurrenceStore

open Sys2Proof Sys2Proof.Machine

/-! ## Conditions on the copies of a record -/

theorem hasCopy_iff {r : Record} {h : HostId} {f : Copy → Bool} :
    r.hasCopy h f = true ↔ ∃ c, r.copy h = some c ∧ f c = true := by
  unfold Record.hasCopy
  cases r.copy h <;> simp

theorem escalationAcked_iff {r : Record} :
    r.escalationAcked = true ↔ ∃ k d, r.copy k = some d ∧ d.escalation = true ∧ d.state = .acked := by
  simp [Record.escalationAcked, hasCopy_iff]

/-- A copy that does not keep an ALL record from DONE (R13). -/
theorem copyCounts_iff {r : Record} {h : HostId} :
    r.copyCounts h = true ↔ ∀ c, r.copy h = some c → c.state = .acked
      ∨ (c.state = .expired ∧ r.covered = some h ∧ r.escalationAcked = true) := by
  unfold Record.copyCounts
  cases r.copy h <;> simp [and_assoc]

/-- The condition of DONE under ALL (Table 1-4). -/
theorem all_copyCounts_iff {r : Record} :
    allHosts.all r.copyCounts = true ↔ ∀ h c, r.copy h = some c → c.state = .acked
      ∨ (c.state = .expired ∧ r.covered = some h
          ∧ ∃ k d, r.copy k = some d ∧ d.escalation = true ∧ d.state = .acked) := by
  simp only [List.all_eq_true, mem_allHosts, true_implies, copyCounts_iff, escalationAcked_iff]

/-- An ALL record that is DONE has an ACKED copy: the copy at hand, or the escalation copy that stands in for it. -/
theorem someAcked_of_all_copyCounts {r : Record} (hcopy : ∃ h c, r.copy h = some c)
    (hall : allHosts.all r.copyCounts = true) : r.someAcked = true := by
  obtain ⟨h, c, hc⟩ := hcopy
  rw [someAcked_iff]
  rcases all_copyCounts_iff.mp hall h c hc with hacked | ⟨_, _, k, d, hd, _, hacked⟩
  · exact ⟨h, c, hc, hacked⟩
  · exact ⟨k, d, hd, hacked⟩

/-! ## The outcome under each policy -/

theorem outcome_of_any {r : Record} (hp : r.policy = .any) :
    r.outcome = if r.someAcked then .done else if r.purged then .withdrawn else .expired := by
  simp only [Record.outcome, hp]

theorem outcome_of_all {r : Record} (hp : r.policy = .all) :
    r.outcome = if allHosts.all r.copyCounts then .done else if r.someAcked then .partially
      else if r.purged then .withdrawn else .expired := by
  simp only [Record.outcome, hp]

/-- The row of Table 1-4 for ANY (R12). -/
theorem any_outcome_table {r : Record} (hp : r.policy = .any) :
    (r.outcome = .done ↔ r.someAcked = true) ∧ r.outcome ≠ .partially
    ∧ (r.outcome = .withdrawn ↔ ¬ r.someAcked = true ∧ r.purged = true)
    ∧ (r.outcome = .expired ↔ ¬ r.someAcked = true ∧ r.purged = false) := by
  rw [outcome_of_any hp]
  cases r.someAcked <;> cases r.purged <;> simp

/-- The row of Table 1-4 for ALL (R13). A record without a copy would be DONE with no copy ACKED. -/
theorem all_outcome_table {r : Record} (hp : r.policy = .all) (hcopy : ∃ h c, r.copy h = some c) :
    (r.outcome = .done ↔ allHosts.all r.copyCounts = true)
    ∧ (r.outcome = .partially ↔ ¬ allHosts.all r.copyCounts = true ∧ r.someAcked = true)
    ∧ (r.outcome = .withdrawn ↔ ¬ r.someAcked = true ∧ r.purged = true)
    ∧ (r.outcome = .expired ↔ ¬ r.someAcked = true ∧ r.purged = false) := by
  rw [outcome_of_all hp]
  by_cases hall : allHosts.all r.copyCounts = true
  · simp [hall, someAcked_of_all_copyCounts hcopy hall]
  · rw [if_neg hall]
    cases r.someAcked <;> cases r.purged <;> simp [hall]

/-- Settles O27: the statement's conditions are the model's own tests, and the rows of Table 1-4 hold of these. -/
theorem outcomesFollowTheTable : Obligations.OutcomesFollowTheTable := by
  intro r acked covered hcopy hacked hcovered
  rw [← someAcked_iff] at hacked
  rw [← all_copyCounts_iff] at hcovered
  rw [hacked, hcovered]
  exact ⟨fun hp => any_outcome_table hp, fun hp => all_outcome_table hp hcopy⟩

end Sys2Proof.Proofs.OccurrenceStore
end

section
/-! PROOFS. The two commands that report an entry, ROUTE_READ and LINE_READ (R32, R112): one shape of rule for both, its three answers
at a port, and the bytes of each entry as the body that writes it and what the block keeps beside it. -/

namespace Sys2Proof.Proofs.RouteTable

open Sys2Proof Sys2Proof.Machine

/-! ## Index bytes and entries -/

@[simp] theorem sourceOf_byte (n : SourceId) : sourceOf (byte n.val) = some n :=
  sourceOf_eq_some.mpr (by simp [byte]; omega)

@[simp] theorem lineOf_byte (n : LineId) : lineOf (byte n.val) = some n :=
  lineOf_eq_some.mpr (by simp [byte]; omega)

/-- ROUTE_READ answers the body of the ROUTE_WRITE that would write the entry again, then the items no host writes (R32). -/
theorem routeBytes_eq (s : State) (n : SourceId) :
    s.routeBytes n = routeWriteBody n (s.route n).config
      ++ [byte (s.route n).liveCount, byteOfLastOutcome (s.route n).lastOutcome, byteOfGroup (s.groupOfSource n)] := rfl

/-- LINE_READ answers the body of the LINE_WRITE that would write the entry again, then its qualification (R112). -/
theorem lineBytes_eq (s : State) (n : LineId) :
    s.lineBytes n = lineWriteBody n (s.line n).config
      ++ [byteOfBool (s.line n).qual.level, byteOfBool (s.line n).qual.lastSample,
        byte (s.line n).qual.disagreement, byteOfBool (s.line n).qual.firstPending] := rfl

/-! ## The rule of a report -/

/-- The rule of a command whose one body byte names an entry and whose answer is that entry's bytes. -/
def reportRule {ι : Type} (indexOf : Byte → Option ι) (report : State → ι → List Byte) : Rule := fun p body s =>
  if !s.usable p then (s, bare .state)
  else match body with
    | [b] =>
      match indexOf b with
      | none => (s, bare .badarg)
      | some n => (s, okWith (report s n))
    | _ => (s, bare .badarg)

theorem ruleOf_routeRead : ruleOf .routeRead = reportRule sourceOf State.routeBytes := by
  funext p body s
  match body with
  | [] => rfl
  | [b] =>
    simp only [ruleOf, routeReadRule, reportRule]
    cases sourceOf b <;> rfl
  | _ :: _ :: _ => rfl

theorem ruleOf_lineRead : ruleOf .lineRead = reportRule lineOf State.lineBytes := by
  funext p body s
  match body with
  | [] => rfl
  | [b] =>
    simp only [ruleOf, lineReadRule, reportRule]
    cases lineOf b <;> rfl
  | _ :: _ :: _ => rfl

section
variable {ι : Type} {indexOf : Byte → Option ι} {report : State → ι → List Byte} {s : State} {p : HostId} {body : List Byte}

theorem reportRule_of_not_usable (hu : s.usable p = false) : reportRule indexOf report p body s = (s, bare .state) := by
  simp [reportRule, hu]

theorem reportRule_of_bad_body (hu : s.usable p = true) (hb : body.length ≠ 1 ∨ indexOf (body.getD 0 0) = none) :
    reportRule indexOf report p body s = (s, bare .badarg) := by
  match body, hb with
  | [], _ => simp [reportRule, hu]
  | [b], hb =>
    have hnone : indexOf b = none := by simpa using hb
    simp [reportRule, hu, hnone]
  | _ :: _ :: _, _ => simp [reportRule, hu]

theorem reportRule_of_index {b : Byte} {n : ι} (hu : s.usable p = true) (hn : indexOf b = some n) :
    reportRule indexOf report p [b] s = (s, okWith (report s n)) := by
  simp [reportRule, hu, hn]

/-- The three answers of a report at a port that is ready for it. Each leaves the state that the command met. -/
theorem exec_report_of_ready {c : Cmd} (hrule : ruleOf c = reportRule indexOf report) (hready : s.ready p c body = true) :
    ((s.returnToRun p).usable p = false →
      exec (rowOf c p body) s = .next (s.answered (s.returnToRun p) p body (bare .state)))
    ∧ ((s.returnToRun p).usable p = true → body.length ≠ 1 ∨ indexOf (body.getD 0 0) = none →
      exec (rowOf c p body) s = .next (s.answered (s.returnToRun p) p body (bare .badarg)))
    ∧ ∀ b n, (s.returnToRun p).usable p = true → body = [b] → indexOf b = some n →
      exec (rowOf c p body) s = .next (s.answered (s.returnToRun p) p body (okWith (report (s.returnToRun p) n))) := by
  refine ⟨fun hu => ?absent, fun hu hb => ?badBody, fun b n hu hb hn => ?entry⟩ <;>
    refine exec_rowOf_of_ready hready ?_ <;> rw [hrule]
  case absent => exact reportRule_of_not_usable hu
  case badBody => exact reportRule_of_bad_body hu hb
  case entry => rw [hb]; exact reportRule_of_index hu hn

end

/-- Settles O32: both commands are reports, and their entries' bytes are those of the statement. -/
theorem readsReportTheEntry : Obligations.ReadsReportTheEntry := by
  rintro s w p body rfl
  constructor
  · intro hready
    obtain ⟨habsent, hbad, hentry⟩ := exec_report_of_ready ruleOf_routeRead hready
    rw [sourceOf_eq_none] at hbad
    refine ⟨habsent, hbad, fun n hu hb => (hentry _ n hu hb (sourceOf_byte n)).trans ?_⟩
    rw [routeBytes_eq]
    rfl
  · intro hready
    obtain ⟨habsent, hbad, hentry⟩ := exec_report_of_ready ruleOf_lineRead hready
    rw [lineOf_eq_none] at hbad
    refine ⟨habsent, hbad, fun n hu hb => (hentry _ n hu hb (lineOf_byte n)).trans ?_⟩
    rw [lineBytes_eq]
    rfl

end Sys2Proof.Proofs.RouteTable
end

section
/-! PROOFS. The two commands of a host's queue that move no copy: LEVEL (R91) and PEEK (R98). Each rule's answers are stated once, in
the order of its checks, and the event at the port follows from the rule. -/

namespace Sys2Proof.Proofs.OfferQueues

open Sys2Proof Sys2Proof.Machine

/-! ## The fields of LEVEL -/

theorem rangeOf_eq_none {lo hi : Nat} {b : Byte} : rangeOf lo hi b = none ↔ b.toNat < lo ∨ hi < b.toNat := by
  unfold rangeOf
  split <;> simp <;> omega

theorem yesNoOf_of_le_one {b : Byte} (hb : b.toNat ≤ 1) : yesNoOf b = some (decide (b = 1)) := by
  obtain ⟨x, hx⟩ : ∃ x, yesNoOf b = some x :=
    Option.ne_none_iff_exists'.mp fun hnone => absurd (yesNoOf_eq_none.mp hnone) (by omega)
  rw [hx, yesNoOf_eq_some.mp hx]
  cases x <;> rfl

section
variable {s : State} {p : HostId} {body : List Byte}

/-! ## The rule of LEVEL -/

theorem levelRule_of_not_usable (hu : s.usable p = false) : levelRule p body s = (s, bare .state) := by
  simp [levelRule, hu]

theorem levelRule_of_bad_body (hu : s.usable p = true)
    (hb : body.length ≠ 2 ∨ 15 < (body.getD 0 0).toNat ∨ 1 < (body.getD 1 0).toNat) :
    levelRule p body s = (s, bare .badarg) := by
  match body, hb with
  | [], _ => simp [levelRule, hu]
  | [_], _ => simp [levelRule, hu]
  | [t, a], hb =>
    have hbyte : 15 < t.toNat ∨ 1 < a.toNat := by simpa using hb
    rcases hbyte with ht | ha
    · simp [levelRule, hu, rangeOf_eq_none.mpr (.inr ht)]
    · simp [levelRule, hu, yesNoOf_eq_none.mpr ha]
  | _ :: _ :: _ :: _, _ => simp [levelRule, hu]

theorem levelRule_of_values {t a : Byte} (hu : s.usable p = true) (ht : t.toNat ≤ 15) (ha : a.toNat ≤ 1) :
    levelRule p [t, a] s =
      (s.setDeliv p { s.deliv p with threshold := t.toNat, accepting := decide (a = 1) }, bare .ok) := by
  have hthreshold : rangeOf 0 15 t = some t.toNat := rangeOf_eq_some.mpr ⟨rfl, Nat.zero_le _, ht⟩
  simp [levelRule, hu, hthreshold, yesNoOf_of_le_one ha]

/-! ## The eligible flag -/

theorem priorityOf_of_record {i : SlotId} {r : Record} (hr : s.record? i = some r) : s.priorityOf i = r.priority := by
  simp only [State.priorityOf, hr]

/-- The eligible flag of a head is the two comparisons of R89 with its record's priority. -/
theorem byteOfBool_aboveGate {i : SlotId} {r : Record} (hr : s.record? i = some r) :
    byteOfBool (s.aboveGate p i) =
      if (s.deliv p).threshold < r.priority ∧ (s.deliv p).runningLevel < r.priority then 1 else 0 := by
  simp only [byteOfBool, State.aboveGate, priorityOf_of_record hr, Bool.and_eq_true, decide_eq_true_eq]

/-! ## The rule of PEEK -/

theorem peekRule_of_not_usable (hu : s.usable p = false) : peekRule p body s = (s, bare .state) := by
  simp [peekRule, hu]

theorem peekRule_of_bad_body (hu : s.usable p = true) (hb : body ≠ []) : peekRule p body s = (s, bare .badarg) := by
  simp [peekRule, hu, hb]

theorem peekRule_of_no_head (hu : s.usable p = true) (hh : s.head? p = none) : peekRule p [] s = (s, bare .none) := by
  simp [peekRule, hu, hh]

theorem peekRule_of_head {i : SlotId} (hu : s.usable p = true) (hh : s.head? p = some i) :
    peekRule p [] s =
      (s, okWith (byteOfBool (s.aboveGate p i) :: byte (s.deliv p).stack.length :: s.summaryAt i p)) := by
  simp [peekRule, hu, hh]

end

/-! ## The commands at their port -/

/-- Settles O19: the three answers of LEVEL's rule at a port that is ready for it. -/
theorem levelReplacesBothValues : Obligations.LevelReplacesBothValues := by
  rintro s w p body hready rfl
  refine ⟨fun hu => ?absent, fun hu => ⟨fun hb => ?badBody, fun a b hb ha hb1 => ?accepted⟩⟩ <;>
    refine exec_rowOf_of_ready hready ?_
  case absent => exact levelRule_of_not_usable hu
  case badBody => exact levelRule_of_bad_body hu hb
  case accepted => rw [hb]; exact levelRule_of_values hu ha hb1

/-- Settles O22: each of the four answers of PEEK's rule leaves the state that the command met, and the eligible flag is the
comparison of R89. -/
theorem peekReportsTheHead : Obligations.PeekReportsTheHead := by
  rintro s w p body hready rfl
  refine ⟨fun hu => ?absent, fun hu hb => ?badBody, fun hu hb hh => ?noHead, fun i r hu hb hh hr => ?head⟩ <;>
    refine exec_rowOf_of_ready hready ?_
  case absent => exact peekRule_of_not_usable hu
  case badBody => exact peekRule_of_bad_body hu hb
  case noHead => rw [hb]; exact peekRule_of_no_head hu hh
  case head => rw [hb, ← byteOfBool_aboveGate hr]; exact peekRule_of_head hu hh

end Sys2Proof.Proofs.OfferQueues
end

section
/-! PROOFS. An accepted LINE_WRITE (R113, R114, R120, R121): its five fields are read back from the body that carries them, each check of
Table 6-3 says what the statement's condition says, and past the checks the rule replaces the line. -/

namespace Sys2Proof.Proofs.EventLines

open Sys2Proof Sys2Proof.Machine

/-! ## The fields of a LINE_WRITE body -/

@[simp] theorem modeOf_byteOfMode (m : Mode) : modeOf (byteOfMode m) = some m := by
  cases m <;> rfl

@[simp] theorem periodOf_byteOfPeriod (d : Period) : periodOf (byteOfPeriod d) = some d := by
  cases d <;> rfl

@[simp] theorem groupOf_byteOfGroup (g : Option GroupId) : groupOf (byteOfGroup g) = some g := by
  revert g
  decide

theorem rangeOf_byte {lo hi k : Nat} (hhi : hi < 256) (hlo : lo ≤ k) (hk : k ≤ hi) : rangeOf lo hi (byte k) = some k :=
  rangeOf_eq_some.mpr ⟨by simp [byte]; omega, hlo, hk⟩

/-- The fields of a legal configuration are read back from its bytes. -/
theorem lineConfigOf_bytes {c : LineConfig} (hc : c.inRange) :
    lineConfigOf (byteOfMode c.mode) (byteOfPeriod c.period) (byte c.q) (byteOfGroup c.group) = some c := by
  obtain ⟨hlo, hhi⟩ := hc
  simp [lineConfigOf, rangeOf_byte (by decide) hlo hhi]

section
variable {s : State} {p : HostId} {n : LineId} {c : LineConfig}

/-! ## The checks of Table 6-3 -/

theorem mayEdit_iff {k : SourceId} : s.mayEdit p k = true ↔ (s.route k).config.owner = p ∨ s.administrator = p := by
  simp [State.mayEdit]

theorem ownsGroup_iff {g : Option GroupId} :
    s.ownsGroup p g = true ↔ ∀ k, g = some k → (s.route (groupSource k)).config.owner = p := by
  cases g <;> simp [State.ownsGroup]

theorem mayRegroup_iff {old new : Option GroupId} :
    s.mayRegroup p old new = true ↔
      s.administrator = p ∨ (s.ownsGroup p old = true ∧ s.ownsGroup p new = true) := by
  simp [State.mayRegroup]

/-- Order 4 lets a write pass that keeps the group, or whose requester has the rights over both groups (R120). -/
theorem regroupRefused_byteOfGroup_eq_false {g : Option GroupId} :
    s.regroupRefused p n (byteOfGroup g) = false ↔
      (g ≠ (s.line n).config.group → s.mayRegroup p (s.line n).config.group g = true) := by
  simp [State.regroupRefused, eq_comm (a := g)]

/-- Order 8 lets a write pass whose group is kept, is none or has room (R120). -/
theorem groupFull_eq_false {old new : Option GroupId} :
    s.groupFull old new = false ↔ ∀ g, new = some g → new ≠ old → (s.members g).length < 8 := by
  cases new with
  | none => simp [State.groupFull]
  | some g =>
    have hcapacity : ¬ Config.groupCapacity ≤ (s.members g).length ↔ (s.members g).length < 8 := Nat.not_le
    simp [State.groupFull, eq_comm (a := old), ← hcapacity]

/-! ## The rule of LINE_WRITE past its checks -/

/-- The line after an accepted write, by what the write changes: mode OFF clears the qualification, a change of mode, period or Q
starts it afresh, and any other write leaves it (R114, R121). -/
theorem written_eq (l : Line) (c : LineConfig) :
    l.written c =
      { config := c
        qual :=
          if c.mode = .off then { lastSample := false, level := false, disagreement := 0, firstPending := false }
          else if c.mode ≠ l.config.mode ∨ c.period ≠ l.config.period ∨ c.q ≠ l.config.q then
            { lastSample := l.qual.lastSample, level := l.qual.level, disagreement := 0, firstPending := true }
          else l.qual } := by
  by_cases hsame : c.mode = l.config.mode ∧ c.period = l.config.period ∧ c.q = l.config.q
  · simp [Line.written, hsame]
  · have hchanged : c.mode ≠ l.config.mode ∨ c.period ≠ l.config.period ∨ c.q ≠ l.config.q := by
      simpa only [not_and_or] using hsame
    simp only [Line.written, if_neg hsame, if_pos hchanged]

/-- Orders 6 to 8 pass, and the line is replaced. -/
theorem lineWriteChecked_of_accepted
    (hlevel : c.mode.isLevel = true → c.group = none ∧ (s.route (lineSource n)).config.depth ≤ 1)
    (hroom : s.groupFull (s.line n).config.group c.group = false) :
    lineWriteChecked n c s = (s.setLine n ((s.line n).written c), bare .ok) := by
  have hgroup : ¬ (c.mode.isLevel = true ∧ c.group ≠ none) := fun ⟨hl, hg⟩ => hg (hlevel hl).1
  have hdepth : ¬ (c.mode.isLevel = true ∧ 1 < (s.route (lineSource n)).config.depth) :=
    fun ⟨hl, hd⟩ => absurd (hlevel hl).2 (by omega)
  rw [lineWriteChecked, if_neg hgroup, if_neg hdepth, hroom]
  rfl

/-- Orders 1 to 5 pass a body that carries a legal configuration from a requester with the rights. -/
theorem lineWriteRule_lineWriteBody (hu : s.usable p = true) (hedit : s.mayEdit p (lineSource n) = true)
    (hregroup : s.regroupRefused p n (byteOfGroup c.group) = false) (hc : c.inRange) :
    lineWriteRule p (lineWriteBody n c) s = lineWriteChecked n c s := by
  simp [lineWriteRule, lineWriteBody, hu, hedit, hregroup, lineConfigOf_bytes hc]

end

/-- Settles O39: the statement's conditions pass every check of Table 6-3, so that the rule replaces the line. -/
theorem lineWriteReplacesTheLine : Obligations.LineWriteReplacesTheLine := by
  rintro s w p n c owns hready rfl hu hc rfl hedit hregroup hlevel hroom
  simp only [← ownsGroup_iff, ← mayRegroup_iff] at hregroup
  have hchecks : lineWriteRule p (lineWriteBody n c) (s.returnToRun p) = lineWriteChecked n c (s.returnToRun p) :=
    lineWriteRule_lineWriteBody hu (mayEdit_iff.mpr hedit) (regroupRefused_byteOfGroup_eq_false.mpr hregroup) hc
  have hwrite := lineWriteChecked_of_accepted hlevel (groupFull_eq_false.mpr hroom)
  rw [written_eq] at hwrite
  exact exec_rowOf_of_ready hready (hchecks.trans hwrite)

end Sys2Proof.Proofs.EventLines
end

section
/-! PROOFS. RECEIPT (R134): the four answers of its rule in the order of its checks, and the event at the port. -/

namespace Sys2Proof.Proofs.PostUnit

open Sys2Proof Sys2Proof.Machine

section
variable {s : State} {p : HostId} {body : List Byte}

/-! ## The rule of RECEIPT -/

theorem receiptRule_of_not_usable (hu : s.usable p = false) : receiptRule p body s = (s, bare .state) := by
  simp [receiptRule, hu]

theorem receiptRule_of_bad_body (hu : s.usable p = true) (hb : body ≠ []) :
    receiptRule p body s = (s, bare .badarg) := by
  simp [receiptRule, hu, hb]

theorem receiptRule_of_no_receipt (hu : s.usable p = true) (hr : (s.postUnit p).receipts = []) :
    receiptRule p [] s = (s, bare .none) := by
  simp [receiptRule, hu, hr]

/-- The front of the list is answered, and the rest of the list is what the requester keeps. -/
theorem receiptRule_of_receipt {x : Receipt} {later : List Receipt} (hu : s.usable p = true)
    (hr : (s.postUnit p).receipts = x :: later) :
    receiptRule p [] s = (s.setPostUnit p { s.postUnit p with receipts := later }, okWith (receiptBytes x)) := by
  simp [receiptRule, hu, hr]

end

/-- Settles O35: the four answers of RECEIPT's rule at a port that is ready for it. -/
theorem receiptReturnsTheOldest : Obligations.ReceiptReturnsTheOldest := by
  rintro s w p body hready rfl
  refine ⟨fun hu => ?absent, fun hu hb => ?badBody, fun hu hb hr => ?noReceipt, fun x later hu hb hr => ?oldest⟩ <;>
    refine exec_rowOf_of_ready hready ?_
  case absent => exact receiptRule_of_not_usable hu
  case badBody => exact receiptRule_of_bad_body hu hb
  case noReceipt => rw [hb]; exact receiptRule_of_no_receipt hu hr
  case oldest => rw [hb]; exact receiptRule_of_receipt hu hr

end Sys2Proof.Proofs.PostUnit
end

section
/-! PROOFS. RESTORE (R163): the five refusals of its rule in the order of its checks and its effect past them, and the event at the
port. -/

namespace Sys2Proof.Proofs.ClockSupervision

open Sys2Proof Sys2Proof.Machine

/-! ## What the rule tests of the clock -/

theorem clockState_ne_backup_iff {x : ClockState} : x ≠ .backup ↔ x = .start ∨ x = .ref := by
  cases x <;> simp

theorem stable_iff {c : Clock} : c.stable = true ↔ c.stability = 4000 := beq_iff_eq

section
variable {s : State} {p : HostId} {body : List Byte}

/-! ## The rule of RESTORE -/

theorem restoreRule_of_not_usable (hu : s.usable p = false) : restoreRule p body s = (s, bare .state) := by
  simp [restoreRule, hu]

theorem restoreRule_of_not_administrator (hu : s.usable p = true) (ha : s.administrator ≠ p) :
    restoreRule p body s = (s, bare .denied) := by
  simp [restoreRule, hu, ha]

theorem restoreRule_of_bad_body (hu : s.usable p = true) (ha : s.administrator = p) (hb : body ≠ []) :
    restoreRule p body s = (s, bare .badarg) := by
  simp [restoreRule, hu, ha, hb]

theorem restoreRule_of_not_backup (hu : s.usable p = true) (ha : s.administrator = p) (hc : s.clock.state ≠ .backup) :
    restoreRule p [] s = (s, bare .state) := by
  simp [restoreRule, hu, ha, hc]

theorem restoreRule_of_not_stable (hu : s.usable p = true) (ha : s.administrator = p) (hc : s.clock.state = .backup)
    (hm : s.clock.stability ≠ 4000) : restoreRule p [] s = (s, bare .notready) := by
  simp [restoreRule, hu, ha, hc, stable_iff, hm]

theorem restoreRule_of_stable (hu : s.usable p = true) (ha : s.administrator = p) (hc : s.clock.state = .backup)
    (hm : s.clock.stability = 4000) :
    restoreRule p [] s = ({ s with clock := { s.clock with state := .ref } }, bare .ok) := by
  simp [restoreRule, hu, ha, hc, stable_iff.mpr hm]

end

/-- Settles O42: each answer of the statement's chain is that of the rule under the same checks. The chain tests for what is refused, so
that the split, which turns a negated test around, meets the accepted command before the refusals that follow STATE. -/
theorem restoreReturnsToRef : Obligations.RestoreReturnsToRef := by
  rintro s w p body hready rfl
  simp only [← clockState_ne_backup_iff, List.length_eq_zero_iff, ne_eq]
  split_ifs with hu ha hb hc hm <;> refine exec_rowOf_of_ready hready ?_
  · exact restoreRule_of_not_usable hu
  all_goals rw [Bool.not_eq_false] at hu
  · rw [hb]; exact restoreRule_of_stable hu ha hc hm
  · rw [hb]; exact restoreRule_of_not_stable hu ha hc hm
  · rw [hb]; exact restoreRule_of_not_backup hu ha hc
  · exact restoreRule_of_bad_body hu ha hb
  · exact restoreRule_of_not_administrator hu ha

end Sys2Proof.Proofs.ClockSupervision
end

section
/-! PROOFS. The transactions of a host port (R165, R166, R169): what a port's own operations write, how a request is judged and what
follows from each judgement, and what a fetch selects. -/

namespace Sys2Proof.Proofs.HostPorts

open Sys2Proof Sys2Proof.Machine

/-! ## A port written and read -/

@[simp] theorem setPort_setPort (s : State) (p : HostId) (x y : Port) : (s.setPort p x).setPort p y = s.setPort p y := by
  simp [State.setPort, vset]

/-- The return to RUN reads and writes no port (R147). -/
theorem returnToRun_setPort (s : State) (p h : HostId) (x : Port) :
    (s.setPort p x).returnToRun h = (s.returnToRun h).setPort p x := by
  simp only [State.returnToRun, host_setPort]
  cases (s.host h).state <;> rfl

@[simp] theorem port_drivesZero_same (s : State) (p : HostId) (n : Nat) :
    (s.drivesZero p n).port p = { s.port p with sdo := List.replicate n 0 } := port_setPort_same ..

@[simp] theorem executing_drivesZero (s : State) (p : HostId) (n : Nat) :
    ((s.drivesZero p n).port p).executing = (s.port p).executing := by
  rw [port_drivesZero_same]
  rfl

/-! ## The judgement of a request -/

/-- A frame with its length byte is intact exactly if the bytes of the request are no bad frame: past the length byte at least the CRC
follows, which is then the last byte of the whole request. -/
theorem frameIntact_iff (code len : Byte) (rest : List Byte) :
    frameIntact code len rest = true ↔ ¬ requestIsBad (code :: len :: rest) := by
  cases rest with
  | nil => simp [frameIntact, requestIsBad]
  | cons b more =>
    simp only [frameIntact, requestIsBad, Bool.and_eq_true, decide_eq_true_eq, beq_iff_eq, List.length_cons,
      List.getD_cons_succ, List.getD_cons_zero, List.getLast?_cons_cons, List.dropLast_cons_cons, not_or, not_lt, not_not,
      ne_eq, and_assoc]
    constructor
    · rintro ⟨hmax, hlen, hcrc⟩
      exact ⟨by omega, hmax, by omega, hcrc⟩
    · rintro ⟨-, hmax, hlen, hcrc⟩
      exact ⟨hmax, by omega, hcrc⟩

theorem judgeFrame_of_bad {bytes : List Byte} (h : requestIsBad bytes) : judgeFrame bytes = .badFrame := by
  match bytes, h with
  | [], _ => rfl
  | [_], _ => rfl
  | code :: len :: rest, h => exact if_neg fun hi => (frameIntact_iff code len rest).mp hi h

/-- A request that is no bad frame has its length byte, and its frame is intact. -/
theorem exists_frameIntact {code : Byte} {rest : List Byte} (h : ¬ requestIsBad (code :: rest)) :
    ∃ len more, rest = len :: more ∧ frameIntact code len more = true := by
  cases rest with
  | nil => exact absurd (Or.inl (by simp)) h
  | cons len more => exact ⟨len, more, rfl, (frameIntact_iff code len more).mpr h⟩

theorem judgeFrame_of_no_command {code : Byte} {rest : List Byte} (h : ¬ requestIsBad (code :: rest))
    (hc : cmdOf code = none) : judgeFrame (code :: rest) = .badCommand := by
  obtain ⟨len, more, rfl, hi⟩ := exists_frameIntact h
  simp [judgeFrame, hi, hc]

theorem judgeFrame_of_command {code : Byte} {rest : List Byte} {c : Cmd} (h : ¬ requestIsBad (code :: rest))
    (hc : cmdOf code = some c) : judgeFrame (code :: rest) = .valid c ((code :: rest).drop 2).dropLast := by
  obtain ⟨len, more, rfl, hi⟩ := exists_frameIntact h
  simp [judgeFrame, hi, hc]

section
variable {s : State} {p : HostId} {bytes : List Byte}

/-! ## What follows from the judgement -/

theorem requestOn_of_executing (h : (s.port p).executing = true) : s.requestOn p bytes = s.dropRequest p := if_pos h

theorem requestOn_of_badFrame (h : (s.port p).executing = false) (hj : judgeFrame bytes = .badFrame) :
    s.requestOn p bytes = s.answerAtOnce p .badframe := by
  simp [State.requestOn, h, hj]

theorem requestOn_of_badCommand (h : (s.port p).executing = false) (hj : judgeFrame bytes = .badCommand) :
    s.requestOn p bytes = s.answerAtOnce p .badcmd := by
  simp [State.requestOn, h, hj]

theorem requestOn_of_valid {c : Cmd} {body : List Byte} (h : (s.port p).executing = false)
    (hj : judgeFrame bytes = .valid c body) : s.requestOn p bytes = (s.beginExecution p c body).driveLines := by
  simp [State.requestOn, h, hj]

/-! ## The kinds of a transaction -/

theorem transaction_nil (h : (s.port p).ignoring = false) : s.transaction p [] = s := by
  simp [State.transaction, h]

theorem transaction_of_fetch (h : (s.port p).ignoring = false) (rest : List Byte) :
    s.transaction p (0 :: rest) = s.fetchOn p rest.length := by
  simp [State.transaction, h]

theorem transaction_of_request {code : Byte} (h : (s.port p).ignoring = false) (hc : code ≠ 0) (rest : List Byte) :
    s.transaction p (code :: rest) = (s.drivesZero p (code :: rest).length).requestOn p (code :: rest) := by
  rw [State.transaction, if_neg (by simp [h])]
  exact if_neg hc

/-- What a host sends after the first byte of a fetch has no part in it: only the number of bytes counts (R169). -/
theorem transaction_fetch_congr {xs ys : List Byte} (h : xs.length = ys.length) :
    s.transaction p (0 :: xs) = s.transaction p (0 :: ys) := by
  cases hi : (s.port p).ignoring with
  | false => rw [transaction_of_fetch hi, transaction_of_fetch hi, h]
  | true => rw [transaction_of_ignoring hi, transaction_of_ignoring hi]

/-! ## What a fetch selects -/

/-- The executing flag is no exactly where the model's execution is at rest (R165). -/
theorem executing_eq_false_iff {x : Port} : x.executing = false ↔ x.execution = .idle := by
  unfold Port.executing
  cases x.execution <;> simp

theorem fetched_of_executing (h : (s.port p).executing = true) : s.fetched p = bare .notready := by
  have hbusy : (s.port p).execution ≠ .idle := by simp [← executing_eq_false_iff, h]
  unfold State.fetched
  cases hx : (s.port p).execution with
  | idle => exact absurd hx hbusy
  | received c body => rfl
  | answered r => rfl

theorem fetched_of_not_executing (h : (s.port p).executing = false) :
    s.fetched p = (s.port p).buffer.getD (bare .noresp) := by
  rw [State.fetched, executing_eq_false_iff.mp h]
  cases (s.port p).buffer <;> rfl

end

/-- Settles O6: the request is one of the port's own kinds of transaction, its judgement is that of its bytes, and each judgement's
writes to the port come together in one. -/
theorem requestsAreJudged : Obligations.RequestsAreJudged := by
  rintro s p code rest bytes hcode rfl
  refine ⟨fun hign => congrArg _ (transaction_of_ignoring hign _), fun hign => ?_⟩
  have hexec : exec (.requestTransaction p (code :: rest)) s
      = .next ((s.drivesZero p (code :: rest).length).requestOn p (code :: rest)) :=
    congrArg _ (transaction_of_request hign hcode rest)
  rw [hexec, ← executing_drivesZero s p (code :: rest).length]
  refine ⟨fun hx => ?dropped, fun hx hbad => ?badFrame, fun hx hgood hc => ?badCommand, fun c hx hgood hc => ?valid⟩
  case dropped => rw [requestOn_of_executing hx]; simp [State.dropRequest, State.drivesZero]
  case badFrame =>
    rw [requestOn_of_badFrame hx (judgeFrame_of_bad hbad)]; simp [State.answerAtOnce, State.drivesZero, bare]
  case badCommand =>
    rw [requestOn_of_badCommand hx (judgeFrame_of_no_command hgood hc)]
    simp [State.answerAtOnce, State.drivesZero, bare]
  case valid =>
    rw [requestOn_of_valid hx (judgeFrame_of_command hgood hc)]
    simp [State.beginExecution, State.drivesZero, returnToRun_setPort]

/-- Settles O10: the statement's response and host code are those that the port selects, and a transaction that begins with 0x00 is a
fetch of the bytes after it. -/
theorem fetchDrivesTheResponse : Obligations.FetchDrivesTheResponse := by
  rintro s p n r code hr hcode
  have hfetched : s.fetched p = r := by
    rw [hr]
    split_ifs with hx
    · exact fetched_of_executing hx
    · rw [fetched_of_not_executing (Bool.eq_false_of_not_eq_true hx)]
      cases (s.port p).buffer <;> rfl
  have hhost : s.hostCode p = code := hcode.symm
  refine ⟨fun hign => ⟨?fetch, congrArg _ (transaction_nil hign)⟩,
    fun hign => ⟨congrArg _ (transaction_of_ignoring hign _), congrArg _ (transaction_of_ignoring hign _)⟩,
    fun rest hrest => congrArg _ (transaction_fetch_congr (by simp [hrest]))⟩
  case fetch =>
    refine congrArg _ ((transaction_of_fetch hign _).trans ?_)
    rw [List.length_replicate, State.fetchOn, State.flagsByte, hfetched, hhost]
    rfl

end Sys2Proof.Proofs.HostPorts
end

section
/-! PROOFS. The two commands that any host may give in any state, IDENT (R172) and STATUS (R173): each rule's two answers, and the
bytes of STATUS in the order of Table 11-7. -/

namespace Sys2Proof.Proofs.Device

open Sys2Proof Sys2Proof.Machine

section
variable {s : State} (p : HostId) {body : List Byte}

/-! ## The rules of IDENT and STATUS -/

theorem identRule_nil : identRule p [] s = (s, okWith [0x0D, 0x41, 0x04, 0x16, 1]) := rfl

theorem identRule_of_bad_body (hb : body ≠ []) : identRule p body s = (s, bare .badarg) := by
  simp [identRule, hb]

theorem statusRule_nil : statusRule p [] s = (s, okWith s.statusBytes) := rfl

theorem statusRule_of_bad_body (hb : body ≠ []) : statusRule p body s = (s, bare .badarg) := by
  simp [statusRule, hb]

end

/-- The bytes of STATUS one by one: clock state, timebase, the free counts, the wait list, the hosts, the administrator (R173). -/
theorem statusBytes_eq (s : State) :
    s.statusBytes = byteOfClockState s.clock.state :: (bytes32 s.clock.timebase
      ++ [byte (44 - s.store.generalLive), byte (4 - s.store.systemLive), byte s.waitList.length,
        byteOfHostState (s.host 0).state, byteOfHostState (s.host 1).state, byteOfHostState (s.host 2).state,
        byteOfHostState (s.host 3).state, byte s.administrator.val]) := rfl

/-- Settles O13: both commands act at a ready port without a test of the host, and their rules tell only an empty body from
another. -/
theorem identAndStatusAnswer : Obligations.IdentAndStatusAnswer := by
  rintro s w p body rfl
  refine ⟨fun hready => ?ident, fun hready => ?status⟩
  case ident =>
    split_ifs with hb
    · subst hb; exact exec_rowOf_of_ready hready (identRule_nil p)
    · exact exec_rowOf_of_ready hready (identRule_of_bad_body p hb)
  case status =>
    split_ifs with hb
    · subst hb; rw [← statusBytes_eq]; exact exec_rowOf_of_ready hready (statusRule_nil p)
    · exact exec_rowOf_of_ready hready (statusRule_of_bad_body p hb)

end Sys2Proof.Proofs.Device
end

section
/-! PROOFS. What one step can do, said once: every command ends in one of a few kinds of event, every rule in one of a few states, and a
property that each of these keeps is kept by every step. -/

namespace Sys2Proof.Proofs.StepEffects

open Sys2Proof Sys2Proof.Machine Sys2Proof.Proofs.HostPorts

/-! ## The kinds of event -/

/-- How a command of the table can end from state `s`. -/
inductive Event (s : State) : State → Prop where
  | reset (pins : ResetPins) : Event s (s.deviceReset pins)
  | nothing : Event s s
  | port (p : HostId) (x : Port) : Event s (s.setPort p x)
  | begun (p : HostId) (x : Port) : Event s ((s.returnToRun p).setPort p x).driveLines
  | command (c : Cmd) (p : HostId) (body : List Byte) (x : Port) :
      Event s ((ruleOf c p body (s.returnToRun p)).1.setPort p x).driveLines
  | millisecond : Event s s.millisecond.driveLines
  | sample (period : Period) (levels : BitVec 24) (order : List LineId) :
      Event s ({ s with clock := s.clock.restartDivider period }.sampleAll period levels order).driveLines
  | deadline (i : SlotId) (h : HostId) : Event s (s.deadlineExpiry i h).driveLines
  | loss (h : HostId) : Event s (s.loseHost h).driveLines
  | notDue : Event s s.driveLines
  | risingEdge : Event s { s with clock := s.clock.risingEdge }
  | refLost : Event s s.lossDetected.driveLines
  | stable : Event s { s with clock := s.clock.becomeStable }

theorem requestOn_event (s : State) (p : HostId) (bytes : List Byte) (n : Nat) :
    Event s ((s.drivesZero p n).requestOn p bytes) := by
  simp only [State.requestOn, State.dropRequest, State.answerAtOnce, State.beginExecution, State.drivesZero,
    setPort_setPort, returnToRun_setPort]
  split
  · exact .port p _
  · split
    · exact .port p _
    · exact .port p _
    · exact .begun p _

theorem transaction_event (s : State) (p : HostId) (bytes : List Byte) : Event s (s.transaction p bytes) := by
  unfold State.transaction
  split
  · exact .port p _
  · split
    · exact .nothing
    · split
      · exact .port p _
      · exact requestOn_event s p _ _

theorem setPort_driveLines (s : State) (p : HostId) (x : Port) : s.driveLines.setPort p x = (s.setPort p x).driveLines := rfl

theorem carryOut_event (s : State) (p : HostId) (c : Cmd) (body : List Byte) : Event s (s.carryOut p body (ruleOf c)) :=
  .command c p body _

theorem complete_event (s : State) (p : HostId) : Event s (s.complete p) := by
  unfold State.complete
  split
  · exact .nothing
  · exact .port p _
  · next c body _ =>
    simp only [State.carryOut, State.answered, State.placeAnswer, setPort_driveLines, setPort_setPort]
    exact .command c p body _

theorem hostCommand_event (s : State) (p : HostId) (c : Cmd) (body : List Byte) :
    Event s (s.hostCommand p c body (ruleOf c)) := by
  unfold State.hostCommand
  split
  · exact carryOut_event s p c body
  · exact transaction_event s p _

/-- Every command of the table, in every state, ends in one of the events. -/
theorem exec_event (c : Instr) (s : State) : ∃ t, exec c s = .next t ∧ Event s t := by
  cases c with
  | deviceReset pins => exact ⟨_, rfl, .reset pins⟩
  | requestTransaction p bytes => exact ⟨_, rfl, transaction_event s p bytes⟩
  | executionComplete p => exact ⟨_, rfl, complete_event s p⟩
  | fetch p clocked => exact ⟨_, rfl, transaction_event s p _⟩
  | ident p body => exact ⟨_, rfl, hostCommand_event s p .ident body⟩
  | status p body => exact ⟨_, rfl, hostCommand_event s p .status body⟩
  | attach p body => exact ⟨_, rfl, hostCommand_event s p .attach body⟩
  | detach p body => exact ⟨_, rfl, hostCommand_event s p .detach body⟩
  | power p body => exact ⟨_, rfl, hostCommand_event s p .power body⟩
  | level p body => exact ⟨_, rfl, hostCommand_event s p .level body⟩
  | take p body => exact ⟨_, rfl, hostCommand_event s p .take body⟩
  | peek p body => exact ⟨_, rfl, hostCommand_event s p .peek body⟩
  | ack p body => exact ⟨_, rfl, hostCommand_event s p .ack body⟩
  | detail p body => exact ⟨_, rfl, hostCommand_event s p .detail body⟩
  | post p body => exact ⟨_, rfl, hostCommand_event s p .post body⟩
  | receipt p body => exact ⟨_, rfl, hostCommand_event s p .receipt body⟩
  | routeRead p body => exact ⟨_, rfl, hostCommand_event s p .routeRead body⟩
  | routeWrite p body => exact ⟨_, rfl, hostCommand_event s p .routeWrite body⟩
  | purge p body => exact ⟨_, rfl, hostCommand_event s p .purge body⟩
  | lineRead p body => exact ⟨_, rfl, hostCommand_event s p .lineRead body⟩
  | lineWrite p body => exact ⟨_, rfl, hostCommand_event s p .lineWrite body⟩
  | flushall p body => exact ⟨_, rfl, hostCommand_event s p .flushall body⟩
  | restore p body => exact ⟨_, rfl, hostCommand_event s p .restore body⟩
  | millisecondTick => exact ⟨_, rfl, .millisecond⟩
  | sampleTick period levels order => exact ⟨_, rfl, .sample period levels order⟩
  | deadlineExpiry i h => exact ⟨_, rfl, .deadline i h⟩
  | graceExpiry i h =>
    refine ⟨_, rfl, ?_⟩
    unfold State.graceExpiry
    split
    · exact .notDue
    · split
      · exact .loss h
      · exact .notDue
  | wakeTimerExpiry h =>
    refine ⟨_, rfl, ?_⟩
    unfold State.wakeTimerExpiry
    split
    · exact .loss h
    · exact .notDue
  | refclkRisingEdge => exact ⟨_, rfl, .risingEdge⟩
  | lossDetection => exact ⟨_, rfl, .refLost⟩
  | stabilityReached => exact ⟨_, rfl, .stable⟩

/-- A step is an oscillator cycle, or an event of the state with the front of its queue taken off. -/
theorem step_cases {s t : State} (h : step s = .next t) :
    (s.pending = [] ∧ t = s.oscillatorCycle) ∨ ∃ rest, Event { s with pending := rest } t := by
  unfold step at h
  split at h
  · next hp => cases h; exact .inl ⟨hp, rfl⟩
  · next c rest hp =>
    obtain ⟨u, hu, he⟩ := exec_event c { s with pending := rest }
    rw [h] at hu
    cases hu
    exact .inr ⟨rest, he⟩

/-! ## What the rules can do -/

/-- The host has no timer to wake by: it is neither in DEEP nor in WAKING, as every requester once it has returned to RUN (R147). -/
def Awake (s : State) (p : HostId) : Prop := (s.host p).state ≠ .deep ∧ (s.host p).state ≠ .waking

theorem returnToRun_awake (s : State) (p : HostId) : Awake (s.returnToRun p) p := by
  unfold Awake State.returnToRun
  split <;> simp_all

/-- A usable requester that has returned to RUN is in RUN. -/
theorem Awake.run {s : State} {p : HostId} (h : Awake s p) (hu : s.usable p = true) : (s.host p).state = .run := by
  unfold State.usable at hu
  cases hs : (s.host p).state <;> simp_all [Awake, HostState.usable]

/-- The states that a rule can leave to requester `p` from `s`, each with the checks it passed. -/
inductive RuleEffect (s : State) (p : HostId) : State → Prop where
  | nothing : RuleEffect s p s
  | openSession (grace wake : Nat) : (s.host p).state = .offline → RuleEffect s p (s.openSession p grace wake)
  | reopenSession (grace wake : Nat) : (s.host p).state = .lost →
      RuleEffect s p ((s.openSession p grace wake).admission (.hostback p))
  | freshSession (grace wake : Nat) : s.usable p = true → RuleEffect s p (s.freshAttach p grace wake)
  | detach : s.usable p = true → (s.deliv p).stack = [] → RuleEffect s p (s.detachHost p)
  | sleep : s.usable p = true → (s.deliv p).stack = [] → RuleEffect s p (s.sleepHost p)
  | level (threshold : Nat) (accepting : Bool) :
      RuleEffect s p (s.setDeliv p { s.deliv p with threshold := threshold, accepting := accepting })
  | take (i : SlotId) : s.usable p = true → (s.deliv p).stack.length < 4 → s.head? p = some i → s.aboveGate p i = true →
      RuleEffect s p (s.takeHead p i)
  | ackTaken (i : SlotId) (c : Copy) : s.usable p = true → s.copy? i p = some c → c.state = .taken →
      (s.deliv p).stack.head? = some i → RuleEffect s p ((s.ackTaken p i c).judge i)
  | ackOverdue (i : SlotId) (c : Copy) : s.usable p = true → s.copy? i p = some c → c.state = .overdue →
      (s.deliv p).stack.head? = some i → RuleEffect s p ((s.ackOverdue p i c).judge i)
  | ackStale (i : SlotId) (c : Copy) : s.usable p = true → s.copy? i p = some c → c.state = .stale →
      (s.deliv p).stack.head? = some i → RuleEffect s p ((s.ackStale p i c).judge i)
  | noTarget (n : SourceId) : RuleEffect s p (s.setLastOutcome n .notarget)
  | post (n : SourceId) (i : SlotId) (payload : BitVec 16) (receipt : Bool) (hosts : List HostId) (esc : Bool) :
      s.usable p = true → 32 ≤ n.val → (s.route n).liveCount < (s.route n).config.depth →
      (receipt = true → s.receiptsFull p = false) → Recipients s (s.route n).config hosts esc → s.allocate? n = some i →
      RuleEffect s p (s.createPost p n i payload receipt hosts esc)
  | receipt (x : Receipt) (later : List Receipt) : s.usable p = true → (s.postUnit p).receipts = x :: later →
      RuleEffect s p (s.setPostUnit p { s.postUnit p with receipts := later })
  | routeWrite (n : SourceId) (c : RouteConfig) : c.inRange → (n.val < 32 → c.posters = 0) →
      (isSystem n = true → c.depth = 1 ∧ c.owner = s.administrator) → (s.levelLineSource n = true → c.depth ≤ 1) →
      RuleEffect s p (s.writeRoute n c)
  | purge (n : SourceId) : RuleEffect s p (s.purgeSource n)
  | lineWrite (n : LineId) (c : LineConfig) : c.inRange →
      (c.mode.isLevel = true → c.group = none ∧ (s.route (lineSource n)).config.depth ≤ 1) →
      s.groupFull (s.line n).config.group c.group = false → RuleEffect s p (s.setLine n ((s.line n).written c))
  | flushAll : RuleEffect s p s.flushAll
  | restore : s.clock.state = .backup → s.clock.stability = 4000 →
      RuleEffect s p { s with clock := { s.clock with state := .ref } }

/-- The fields that a ROUTE_WRITE reads are in their ranges (Table 2-2, order 6). -/
theorem routeConfigOf_inRange {b1 b2 b3 b4 b5 b6 b7 b8 b9 b10 b11 : Byte} {c : RouteConfig}
    (h : routeConfigOf b1 b2 b3 b4 b5 b6 b7 b8 b9 b10 b11 = some c) : c.inRange := by
  simp only [routeConfigOf, Option.bind_eq_bind, Option.bind_eq_some_iff, Option.pure_def, Option.some.injEq,
    rangeOf_eq_some, timeOf_eq_some] at h
  obtain ⟨_, -, _, -, _, -, _, ⟨-, hp⟩, _, -, _, ⟨-, hd⟩, _, ⟨-, ht⟩, _, -, _, -, _, -, rfl⟩ := h
  exact ⟨hp.1, hp.2, hd.1, hd.2, ht.2⟩

/-- The fields that a LINE_WRITE reads are in their ranges (Table 6-3, order 5). -/
theorem lineConfigOf_inRange {b1 b2 b3 b4 : Byte} {c : LineConfig} (h : lineConfigOf b1 b2 b3 b4 = some c) : c.inRange := by
  simp only [lineConfigOf, Option.bind_eq_bind, Option.bind_eq_some_iff, Option.pure_def, Option.some.injEq,
    rangeOf_eq_some] at h
  obtain ⟨_, -, _, -, _, ⟨-, hq⟩, _, -, rfl⟩ := h
  exact hq

section
variable {s : State} {p : HostId}

theorem identRule_effect (body : List Byte) : RuleEffect s p (identRule p body s).1 := by
  unfold identRule
  split <;> exact .nothing

theorem statusRule_effect (body : List Byte) : RuleEffect s p (statusRule p body s).1 := by
  unfold statusRule
  split <;> exact .nothing

theorem attachRule_effect (ha : Awake s p) (body : List Byte) : RuleEffect s p (attachRule p body s).1 := by
  obtain ⟨hdeep, hwaking⟩ := ha
  unfold attachRule
  split
  · split
    · unfold attachChecked
      split
      · next hs => exact .openSession _ _ hs
      · next hs => exact .reopenSession _ _ hs
      · next hoff hlost =>
        split
        · refine .freshSession _ _ ?_
          unfold State.usable
          cases hs : (s.host p).state <;> simp_all [HostState.usable]
        · exact .nothing
    · exact .nothing
  · exact .nothing

theorem detachRule_effect (body : List Byte) : RuleEffect s p (detachRule p body s).1 := by
  unfold detachRule
  split_ifs with hu hb hk
  · exact .nothing
  · exact .nothing
  · exact .nothing
  · exact .detach (by simpa using hu) (by simpa using hk)

theorem powerRule_effect (body : List Byte) : RuleEffect s p (powerRule p body s).1 := by
  unfold powerRule
  split
  · exact .nothing
  · next hu =>
    split
    · split
      · exact .nothing
      · exact .nothing
      · split_ifs with hk hd
        · exact .nothing
        · exact .nothing
        · exact .sleep (by simpa using hu) (by simpa using hk)
    · exact .nothing

theorem levelRule_effect (body : List Byte) : RuleEffect s p (levelRule p body s).1 := by
  unfold levelRule
  split
  · exact .nothing
  · split
    · split
      · exact .level _ _
      · exact .nothing
    · exact .nothing

theorem takeRule_effect (body : List Byte) : RuleEffect s p (takeRule p body s).1 := by
  unfold takeRule
  split_ifs with hu hb hk
  · exact .nothing
  · exact .nothing
  · exact .nothing
  · split
    · exact .nothing
    · next i hi =>
      split
      · next hg => exact .take i (by simpa using hu) (Nat.lt_of_not_le hk) hi hg
      · exact .nothing

theorem peekRule_effect (body : List Byte) : RuleEffect s p (peekRule p body s).1 := by
  unfold peekRule
  split_ifs
  · exact .nothing
  · exact .nothing
  · split <;> exact .nothing

theorem ackCopy_effect {i : SlotId} {c : Copy} (hu : s.usable p = true) (hc : s.copy? i p = some c) :
    RuleEffect s p (ackCopy p i c s).1 := by
  unfold ackCopy
  dsimp only
  split
  · exact .nothing
  · exact .nothing
  · exact .nothing
  · exact .nothing
  · exact .nothing
  · next hx =>
    split
    · next ht => exact .ackTaken i c hu hc hx (by simpa using ht)
    · exact .nothing
  · next hx =>
    split
    · next ht => exact .ackOverdue i c hu hc hx (by simpa using ht)
    · exact .nothing
  · next hx =>
    split
    · next ht => exact .ackStale i c hu hc hx (by simpa using ht)
    · exact .nothing

theorem ackRule_effect (body : List Byte) : RuleEffect s p (ackRule p body s).1 := by
  unfold ackRule
  split
  · exact .nothing
  · next hu =>
    split
    · split
      · exact .nothing
      · split
        · exact .nothing
        · next c hc => exact ackCopy_effect (by simpa using hu) hc
    · exact .nothing

theorem detailRule_effect (body : List Byte) : RuleEffect s p (detailRule p body s).1 := by
  unfold detailRule
  split
  · exact .nothing
  · split
    · split
      · exact .nothing
      · split <;> exact .nothing
    · exact .nothing

theorem postChecked_effect (hu : s.usable p = true) {n : SourceId} (hn : 32 ≤ n.val) (payload : BitVec 16) (receipt : Bool) :
    RuleEffect s p (postChecked p n payload receipt s).1 := by
  unfold postChecked
  dsimp only
  split_ifs with he hd hf hr
  · exact .nothing
  · exact .nothing
  · exact .nothing
  · exact .nothing
  · split
    · exact .noTarget n
    · next hosts esc hrec =>
      split
      · exact .nothing
      · next i hi =>
        exact .post n i payload receipt hosts esc hu hn (Nat.lt_of_not_le hf) (by simpa using hr)
          (recipients_eq_some.mp hrec) hi

theorem postRule_effect (body : List Byte) : RuleEffect s p (postRule p body s).1 := by
  unfold postRule
  split
  · exact .nothing
  · next hu =>
    split
    · split
      · split
        · exact .nothing
        · next hn => exact postChecked_effect (by simpa using hu) (Nat.le_of_not_lt hn) _ _
      · exact .nothing
    · exact .nothing

theorem receiptRule_effect (body : List Byte) : RuleEffect s p (receiptRule p body s).1 := by
  unfold receiptRule
  split_ifs with hu hb
  · exact .nothing
  · exact .nothing
  · split
    · exact .nothing
    · next x later hx => exact .receipt x later (by simpa using hu) hx

theorem routeReadRule_effect (body : List Byte) : RuleEffect s p (routeReadRule p body s).1 := by
  unfold routeReadRule
  split
  · exact .nothing
  · split
    · split <;> exact .nothing
    · exact .nothing

theorem routeWriteChecked_effect {n : SourceId} {c : RouteConfig} (hc : c.inRange) :
    RuleEffect s p (routeWriteChecked n c s).1 := by
  unfold routeWriteChecked
  split_ifs with hposters hdepth howner hlevel
  · exact .nothing
  · exact .nothing
  · exact .nothing
  · exact .nothing
  · exact .routeWrite n c hc (fun hn => by_contra fun h => hposters ⟨h, hn⟩)
      (fun hs => ⟨by_contra fun h => hdepth ⟨hs, h⟩, by_contra fun h => howner ⟨hs, h⟩⟩)
      (fun hl => Nat.le_of_not_lt fun h => hlevel ⟨hl, h⟩)

theorem routeWriteRule_effect (body : List Byte) : RuleEffect s p (routeWriteRule p body s).1 := by
  unfold routeWriteRule
  split
  · exact .nothing
  · split
    · split
      · exact .nothing
      · split_ifs
        · exact .nothing
        · exact .nothing
        · exact .nothing
        · split
          · exact .nothing
          · next hc => exact routeWriteChecked_effect (routeConfigOf_inRange hc)
    · exact .nothing

theorem purgeRule_effect (body : List Byte) : RuleEffect s p (purgeRule p body s).1 := by
  unfold purgeRule
  split
  · exact .nothing
  · split
    · split
      · exact .nothing
      · split
        · exact .nothing
        · exact .purge _
    · exact .nothing

theorem lineReadRule_effect (body : List Byte) : RuleEffect s p (lineReadRule p body s).1 := by
  unfold lineReadRule
  split
  · exact .nothing
  · split
    · split <;> exact .nothing
    · exact .nothing

theorem lineWriteChecked_effect {n : LineId} {c : LineConfig} (hc : c.inRange) :
    RuleEffect s p (lineWriteChecked n c s).1 := by
  unfold lineWriteChecked
  split_ifs with hgroup hdepth hfull
  · exact .nothing
  · exact .nothing
  · exact .nothing
  · exact .lineWrite n c hc
      (fun hl => ⟨by_contra fun h => hgroup ⟨hl, h⟩, Nat.le_of_not_lt fun h => hdepth ⟨hl, h⟩⟩)
      (Bool.eq_false_of_not_eq_true hfull)

theorem lineWriteRule_effect (body : List Byte) : RuleEffect s p (lineWriteRule p body s).1 := by
  unfold lineWriteRule
  split
  · exact .nothing
  · split
    · split
      · exact .nothing
      · split_ifs
        · exact .nothing
        · exact .nothing
        · split
          · exact .nothing
          · next hc => exact lineWriteChecked_effect (lineConfigOf_inRange hc)
    · exact .nothing

theorem flushallRule_effect (body : List Byte) : RuleEffect s p (flushallRule p body s).1 := by
  unfold flushallRule
  split
  · exact .nothing
  · split
    · exact .nothing
    · split
      · exact .nothing
      · dsimp only; exact .flushAll

theorem restoreRule_effect (body : List Byte) : RuleEffect s p (restoreRule p body s).1 := by
  unfold restoreRule
  split
  · exact .nothing
  · split
    · exact .nothing
    · split
      · exact .nothing
      · split
        · exact .nothing
        · next hstate =>
          split
          · exact .nothing
          · next hstable =>
            have hs : s.clock.stable = true := by simpa using hstable
            exact .restore (not_not.mp hstate) (ClockSupervision.stable_iff.mp hs)

/-- A rule whose requester has returned to RUN leaves one of the states of `RuleEffect`. -/
theorem rule_effect (ha : Awake s p) (c : Cmd) (body : List Byte) : RuleEffect s p (ruleOf c p body s).1 := by
  cases c with
  | ident => exact identRule_effect body
  | status => exact statusRule_effect body
  | attach => exact attachRule_effect ha body
  | detach => exact detachRule_effect body
  | power => exact powerRule_effect body
  | level => exact levelRule_effect body
  | take => exact takeRule_effect body
  | peek => exact peekRule_effect body
  | ack => exact ackRule_effect body
  | detail => exact detailRule_effect body
  | post => exact postRule_effect body
  | receipt => exact receiptRule_effect body
  | routeRead => exact routeReadRule_effect body
  | routeWrite => exact routeWriteRule_effect body
  | purge => exact purgeRule_effect body
  | lineRead => exact lineReadRule_effect body
  | lineWrite => exact lineWriteRule_effect body
  | flushall => exact flushallRule_effect body
  | restore => exact restoreRule_effect body

end

/-! ## Properties that every step keeps -/

/-- Every kind of event keeps the property, the writes of ports, lines and queue apart from the effects of the rules. -/
structure KeptByEvents (P : State → Prop) : Prop where
  reset : ∀ s pins, P s → P (s.deviceReset pins)
  queue : ∀ s rest, P s → P { s with pending := rest }
  port : ∀ s p x, P s → P (s.setPort p x)
  drive : ∀ s, P s → P s.driveLines
  awake : ∀ s p, P s → P (s.returnToRun p)
  rule : ∀ s t p, Awake s p → P s → RuleEffect s p t → P t
  millisecond : ∀ s, P s → P s.millisecond
  sample : ∀ s period levels order, P s →
    P ({ s with clock := s.clock.restartDivider period }.sampleAll period levels order)
  deadline : ∀ s i h, P s → P (s.deadlineExpiry i h)
  loss : ∀ s h, P s → P (s.loseHost h)
  refLost : ∀ s, P s → P s.lossDetected
  risingEdge : ∀ s, P s → P { s with clock := s.clock.risingEdge }
  stable : ∀ s, P s → P { s with clock := s.clock.becomeStable }
  cycle : ∀ s, P s → P s.oscillatorCycle

theorem KeptByEvents.event {P : State → Prop} (k : KeptByEvents P) {s t : State} (hs : P s) (he : Event s t) : P t := by
  cases he with
  | reset pins => exact k.reset s pins hs
  | nothing => exact hs
  | port p x => exact k.port s p x hs
  | begun p x => exact k.drive _ (k.port _ p x (k.awake s p hs))
  | command c p body x =>
    have ha := returnToRun_awake s p
    exact k.drive _ (k.port _ p x (k.rule _ _ p ha (k.awake s p hs) (rule_effect ha c body)))
  | millisecond => exact k.drive _ (k.millisecond s hs)
  | sample period levels order => exact k.drive _ (k.sample s period levels order hs)
  | deadline i h => exact k.drive _ (k.deadline s i h hs)
  | loss h => exact k.drive _ (k.loss s h hs)
  | notDue => exact k.drive s hs
  | risingEdge => exact k.risingEdge s hs
  | refLost => exact k.drive _ (k.refLost s hs)
  | stable => exact k.stable s hs

/-- A property that every kind of event keeps is kept by every step. -/
theorem KeptByEvents.step {P : State → Prop} (k : KeptByEvents P) {s t : State} (hs : P s) (h : step s = .next t) : P t := by
  rcases step_cases h with ⟨-, rfl⟩ | ⟨rest, he⟩
  · exact k.cycle s hs
  · exact k.event (k.queue s rest hs) he

end Sys2Proof.Proofs.StepEffects
end

section
/-! PROOFS. The invariants that rest on what an event leaves alone: the ATTN and WAKE lines, the clock's counts, the routes and the lines, and
the queue of commands. Nearly every event keeps lines, ports, clock and configurations; the few that do not are taken one by one. -/

namespace Sys2Proof.Proofs.Configuration

open Sys2Proof Sys2Proof.Machine Sys2Proof.Proofs.StepEffects

/-! ## What the rules leave alone -/

theorem openSession_kept (s : State) (h : HostId) (grace wake : Nat) : Kept s (s.openSession h grace wake) :=
  (setHost_kept s h _).trans (setDeliv_kept _ h _)

theorem detachHost_kept (s : State) (h : HostId) : Kept s (s.detachHost h) :=
  (setHostState_kept s h _).trans (cleanup_kept _ h)

theorem freshAttach_kept (s : State) (h : HostId) (grace wake : Nat) : Kept s (s.freshAttach h grace wake) :=
  (detachHost_kept s h).trans (openSession_kept _ h _ _)

theorem sleepHost_kept (s : State) (h : HostId) : Kept s (s.sleepHost h) :=
  (setHostState_kept s h _).trans (mapCopies_kept _ h _)

theorem takeHead_kept (s : State) (h : HostId) (i : SlotId) : Kept s (s.takeHead h i) :=
  (pushStack_kept s h i).trans (modifyRecord_kept _ i _)

theorem satisfy_kept (s : State) (i : SlotId) : Kept s (s.satisfy i) := by
  unfold State.satisfy
  split
  · exact Kept.refl s
  · split
    · exact withdraw_kept s i
    · exact Kept.refl s

theorem ackTaken_kept (s : State) (h : HostId) (i : SlotId) (c : Copy) : Kept s (s.ackTaken h i c) :=
  ((setCopy_kept s i h _).trans (popStack_kept _ h)).trans (satisfy_kept _ i)

theorem ackOverdue_kept (s : State) (h : HostId) (i : SlotId) (c : Copy) : Kept s (s.ackOverdue h i c) :=
  ((setCopy_kept s i h _).trans (escalate_kept _ i h)).trans (popStack_kept _ h)

theorem ackStale_kept (s : State) (h : HostId) (i : SlotId) (c : Copy) : Kept s (s.ackStale h i c) :=
  (setCopy_kept s i h _).trans (popStack_kept _ h)

theorem createPost_kept (s : State) (p : HostId) (n : SourceId) (i : SlotId) (payload : BitVec 16) (receipt : Bool)
    (hosts : List HostId) (esc : Bool) : Kept s (s.createPost p n i payload receipt hosts esc) := by
  unfold State.createPost
  split
  · exact (createRecord_kept s _ _ _ _).trans (setPostUnit_kept _ p _)
  · exact createRecord_kept s _ _ _ _

theorem purgeRecord_kept (s : State) (i : SlotId) : Kept s (s.purgeRecord i) :=
  ((markPurged_kept s i).trans (withdraw_kept _ i)).trans (judge_kept _ i)

theorem purgeSource_kept (s : State) (n : SourceId) : Kept s (s.purgeSource n) :=
  (dropWaiting_kept s n).trans (Kept.foldl _ purgeRecord_kept _ _)

theorem endStale_kept (s : State) (i : SlotId) (h : HostId) : Kept s (s.endStale i h) := by
  unfold State.endStale
  split
  · exact Kept.refl s
  · split
    · exact (setCopy_kept s i h _).trans (setDeliv_kept _ h _)
    · exact Kept.refl s

theorem flushRecord_kept (s : State) (i : SlotId) : Kept s (s.flushRecord i) := by
  have hended := ((markPurged_kept s i).trans (withdraw_kept _ i)).trans
    (Kept.foldl _ (fun u h => endStale_kept u i h) allHosts _)
  unfold State.flushRecord
  dsimp only
  split
  · exact hended
  · split
    · exact hended.trans (closeRecord_kept _ i _)
    · exact hended

theorem flushStores_kept (s : State) : Kept s s.flushStores :=
  ((waitList_kept s []).trans (Kept.foldl _ flushRecord_kept _ _)).trans (Kept.foldl _ clearDelivery_kept _ _)

theorem flushRearm_kept (s : State) (n : LineId) : Kept s (s.flushRearm n) := by
  unfold State.flushRearm
  split
  · exact admission_kept s _
  · exact Kept.refl s

theorem flushAll_kept (s : State) : Kept s s.flushAll :=
  (flushStores_kept s).trans (Kept.foldl _ flushRearm_kept _ _)

theorem enableRearm_kept (s : State) (n : SourceId) : Kept s (s.enableRearm n) := by
  unfold State.enableRearm
  split
  · exact Kept.refl s
  · exact levelRecheck_kept s _

/-- Past the write of its fields, a ROUTE_WRITE changes no configuration. -/
theorem writeRoute_kept (s : State) (n : SourceId) (c : RouteConfig) : Kept (s.storeRoute n c) (s.writeRoute n c) := by
  unfold State.writeRoute
  split
  · exact enableRearm_kept _ n
  · exact Kept.refl _

/-- Of the rules only ROUTE_WRITE, LINE_WRITE and RESTORE touch the lines, the clock or a configuration. -/
theorem RuleEffect.kept_or {s t : State} {p : HostId} (h : RuleEffect s p t) :
    Kept s t
    ∨ (∃ n c, c.inRange ∧ (n.val < 32 → c.posters = 0) ∧ (isSystem n = true → c.depth = 1 ∧ c.owner = s.administrator)
        ∧ (s.levelLineSource n = true → c.depth ≤ 1) ∧ t = s.writeRoute n c)
    ∨ (∃ n c, c.inRange ∧ (c.mode.isLevel = true → c.group = none ∧ (s.route (lineSource n)).config.depth ≤ 1)
        ∧ s.groupFull (s.line n).config.group c.group = false ∧ t = s.setLine n ((s.line n).written c))
    ∨ (s.clock.state = .backup ∧ s.clock.stability = 4000 ∧ t = { s with clock := { s.clock with state := .ref } }) := by
  cases h with
  | nothing => exact .inl (Kept.refl s)
  | openSession => exact .inl (openSession_kept ..)
  | reopenSession => exact .inl ((openSession_kept ..).trans (admission_kept ..))
  | freshSession => exact .inl (freshAttach_kept ..)
  | detach => exact .inl (detachHost_kept ..)
  | sleep => exact .inl (sleepHost_kept ..)
  | level => exact .inl (setDeliv_kept ..)
  | take => exact .inl (takeHead_kept ..)
  | ackTaken => exact .inl ((ackTaken_kept ..).trans (judge_kept ..))
  | ackOverdue => exact .inl ((ackOverdue_kept ..).trans (judge_kept ..))
  | ackStale => exact .inl ((ackStale_kept ..).trans (judge_kept ..))
  | noTarget => exact .inl (setLastOutcome_kept ..)
  | post => exact .inl (createPost_kept ..)
  | receipt => exact .inl (setPostUnit_kept ..)
  | routeWrite n c hc hp hs hl => exact .inr (.inl ⟨n, c, hc, hp, hs, hl, rfl⟩)
  | purge => exact .inl (purgeSource_kept ..)
  | lineWrite n c hc hl hg => exact .inr (.inr (.inl ⟨n, c, hc, hl, hg, rfl⟩))
  | flushAll => exact .inl (flushAll_kept s)
  | restore hb hm => exact .inr (.inr (.inr ⟨hb, hm, rfl⟩))

theorem expirePending_kept (s : State) (i : SlotId) (h : HostId) (c : Copy) : Kept s (s.expirePending i h c) :=
  (((setCopy_kept s i h _).trans (dequeue_kept _ h i)).trans (escalate_kept _ i h)).trans (judge_kept _ i)

theorem expireTaken_kept (s : State) (i : SlotId) (h : HostId) (c : Copy) : Kept s (s.expireTaken i h c) :=
  (setCopy_kept s i h _).trans (escalate_kept _ i h)

theorem deadlineExpiry_kept (s : State) (i : SlotId) (h : HostId) : Kept s (s.deadlineExpiry i h) := by
  unfold State.deadlineExpiry
  split
  · exact Kept.refl s
  · split_ifs
    · exact expirePending_kept s i h _
    · exact expireTaken_kept s i h _
    · exact Kept.refl s

/-! ## A sample tick -/

theorem levelEvent_kept (s : State) (n : LineId) (b : Bool) : Kept s (s.levelEvent n b) := by
  unfold State.levelEvent
  split
  · exact admission_kept s _
  · exact Kept.refl s

theorem qualifiedChange_kept (s : State) (n : LineId) (b : Bool) : Kept s (s.qualifiedChange n b) := by
  unfold State.qualifiedChange
  split
  · exact admission_kept s _
  · exact levelEvent_kept s n b

/-- Past the write of its line, a sample changes no line and no configuration. -/
theorem sampleLine_kept (s : State) (n : LineId) (b : Bool) :
    Kept (s.setLine n ((s.line n).sampled b)) (s.sampleLine n b) := by
  unfold State.sampleLine
  dsimp only
  split_ifs
  · exact levelEvent_kept _ n b
  · exact qualifiedChange_kept _ n b
  · exact Kept.refl _

/-- A property that each sample keeps is kept by a sample tick. -/
theorem sampleAll_keeps {P : State → Prop} {period : Period} (levels : BitVec 24) (order : List LineId)
    (hstep : ∀ s n b, P s → (s.line n).config.mode ≠ .off → P (s.sampleLine n b)) {s : State} (hs : P s) :
    P (s.sampleAll period levels order) := by
  unfold State.sampleAll
  generalize sampleOrder order = lines
  induction lines generalizing s with
  | nil => exact hs
  | cons n ns ih =>
    rw [List.foldl_cons]
    split
    · next hn =>
      refine ih (hstep s n _ hs ?_)
      unfold State.sampledAt at hn
      simp only [Bool.and_eq_true, bne_iff_ne] at hn
      exact hn.1
    · exact ih hs

/-! ## The queue of commands -/

theorem RuleEffect.pending {s t : State} {p : HostId} (h : RuleEffect s p t) : t.pending = s.pending := by
  rcases RuleEffect.kept_or h with hk | ⟨n, c, -, -, -, -, rfl⟩ | ⟨n, c, -, -, -, rfl⟩ | ⟨-, -, rfl⟩
  · exact hk.pending
  · refine (writeRoute_kept s n c).pending.trans ?_
    unfold State.storeRoute
    dsimp only
    split <;> rfl
  · rfl
  · rfl

theorem lossDetected_pending (s : State) : s.lossDetected.pending = s.pending := by
  unfold State.lossDetected
  split_ifs
  · exact (admission_kept _ _).pending
  · rfl
  · rfl

theorem event_pending {s t : State} (h : Event s t) : t.pending = s.pending := by
  cases h with
  | command c p body x =>
    exact (RuleEffect.pending (rule_effect (returnToRun_awake s p) c body)).trans (returnToRun_kept s p).pending
  | begun p x => exact (returnToRun_kept s p).pending
  | sample period levels order =>
    have hs : State.pending { s with clock := s.clock.restartDivider period } = s.pending := rfl
    rw [driveLines_pending]
    exact sampleAll_keeps (P := fun t => t.pending = s.pending) levels order
      (fun u n b hu _ => (sampleLine_kept u n b).pending.trans ((setLine_pending u n _).trans hu)) hs
  | deadline i h => exact (driveLines_pending _).trans (deadlineExpiry_kept s i h).pending
  | loss h => exact (driveLines_pending _).trans (loseHost_kept s h).pending
  | refLost => exact (driveLines_pending _).trans (lossDetected_pending s)
  | reset pins => rfl
  | nothing => rfl
  | port p x => rfl
  | millisecond => rfl
  | notDue => rfl
  | risingEdge => rfl
  | stable => rfl

/-- Settles O5: every command ends in an event, and no event touches the queue. -/
theorem everyCommandCompletes : Obligations.EveryCommandCompletes := by
  intro c s
  obtain ⟨t, ht, he⟩ := exec_event c s
  exact ⟨t, ht, event_pending he⟩

/-- Settles O3: by the definition of a step. -/
theorem stepRunsTheFrontCommand : Obligations.StepRunsTheFrontCommand := by
  intro c s
  rfl

/-! ## The ATTN and WAKE lines -/

theorem deviceReset_linesDriven (s : State) (pins : ResetPins) : (s.deviceReset pins).LinesDriven := by
  intro h
  simp [State.deviceReset, State.resetWith, State.deliv, State.host, State.attnCondition, State.wakeCondition,
    Delivery.atReset, HostRecord.atReset]

theorem event_linesDriven {s t : State} (hs : s.LinesDriven) (h : Event s t) : t.LinesDriven := by
  cases h with
  | reset pins => exact deviceReset_linesDriven s pins
  | nothing => exact hs
  | port p x => exact hs
  | risingEdge => exact hs
  | stable => exact hs
  | begun p x => exact driveLines_linesDriven _
  | command c p body x => exact driveLines_linesDriven _
  | millisecond => exact driveLines_linesDriven _
  | sample period levels order => exact driveLines_linesDriven _
  | deadline i h => exact driveLines_linesDriven _
  | loss h => exact driveLines_linesDriven _
  | notDue => exact driveLines_linesDriven _
  | refLost => exact driveLines_linesDriven _

/-- Settles O54: an event that touches a condition of a line ends by driving the lines; the others touch ports and clock only. -/
theorem linesFollowTheirConditions : Obligations.LinesFollowTheirConditions := by
  intro s t hs h
  rcases step_cases h with ⟨-, rfl⟩ | ⟨rest, he⟩
  · exact hs
  · exact event_linesDriven (s := { s with pending := rest }) hs he

/-! ## The clock -/

/-- The invariant reads the clock alone. -/
theorem clockLegal_congr {s t : State} (h : t.clock = s.clock) (hs : s.ClockLegal) : t.ClockLegal := by
  unfold State.ClockLegal
  rw [h]
  exact hs

theorem oneCycle_lt {limit n : Nat} (h : n < limit) : oneCycle limit n < limit := by
  unfold oneCycle
  split <;> omega

theorem oneCycle_stability {n : Nat} (h : n ≤ 4000) :
    oneCycle Config.stableCycles n ≤ 4000 ∧ (n < 4000 → oneCycle Config.stableCycles n < 4000) := by
  unfold oneCycle Config.stableCycles
  split <;> omega

theorem oscillate_legal {s : State} (hs : s.ClockLegal) : s.oscillatorCycle.ClockLegal := by
  obtain ⟨hm, hw, h10, h100, h1, habsent, href, hstart⟩ := hs
  have d10 : oneCycle Config.cyclesUs10 s.clock.dividerUs10 < 40 := oneCycle_lt h10
  have d100 : oneCycle Config.cyclesUs100 s.clock.dividerUs100 < 400 := oneCycle_lt h100
  have d1 : oneCycle Config.cyclesMs1 s.clock.dividerMs1 < 4000 := oneCycle_lt h1
  have dw : oneCycle Config.lossCycles s.clock.lossWindow < 8 := oneCycle_lt hw
  obtain ⟨dm, dms⟩ := oneCycle_stability hm
  unfold State.ClockLegal State.oscillatorCycle Clock.oscillate Clock.divide
  by_cases hr : s.clock.refPresent = true <;> by_cases hst : s.clock.state = .ref <;>
    simp only [hr, hst, if_true, if_false, Bool.false_eq_true]
  · exact ⟨dm, dw, h10, h100, h1, by simp, by simp, by simp⟩
  · exact ⟨dm, dw, d10, d100, d1, by simp, by simp, fun h => dms (hstart h)⟩
  · exact absurd (href hst) hr
  · exact ⟨hm, hw, d10, d100, d1, fun _ => habsent (by simpa using hr), fun h => h.elim, hstart⟩

theorem risingEdge_legal {s : State} (hs : s.ClockLegal) : State.ClockLegal { s with clock := s.clock.risingEdge } := by
  obtain ⟨hm, hw, h10, h100, h1, habsent, href, hstart⟩ := hs
  have d10 : oneCycle Config.cyclesUs10 s.clock.dividerUs10 < 40 := oneCycle_lt h10
  have d100 : oneCycle Config.cyclesUs100 s.clock.dividerUs100 < 400 := oneCycle_lt h100
  have d1 : oneCycle Config.cyclesMs1 s.clock.dividerMs1 < 4000 := oneCycle_lt h1
  unfold State.ClockLegal Clock.risingEdge Clock.divide
  by_cases hr : s.clock.refPresent = true <;> by_cases hst : s.clock.state = .ref <;>
    simp only [hr, hst, if_true, if_false, Bool.false_eq_true]
  · exact ⟨hm, by omega, d10, d100, d1, by simp, by simp, by simp⟩
  · exact ⟨hm, by omega, h10, h100, h1, by simp, by simp, hstart⟩
  · exact absurd (href hst) hr
  · exact ⟨by omega, by omega, h10, h100, h1, by simp, by simp, fun _ => by omega⟩

theorem becomeStable_legal {s : State} (hs : s.ClockLegal) : State.ClockLegal { s with clock := s.clock.becomeStable } := by
  unfold State.ClockLegal Clock.becomeStable
  obtain ⟨hm, hw, h10, h100, h1, habsent, href, hstart⟩ := hs
  dsimp only
  split_ifs with hr hst
  · exact ⟨le_refl _, hw, h10, h100, h1, fun h => Bool.noConfusion (hr.symm.trans h), fun _ => hr, by simp⟩
  · exact ⟨le_refl _, hw, h10, h100, h1, fun h => Bool.noConfusion (hr.symm.trans h), fun _ => hr,
      fun h => absurd h hst⟩
  · exact ⟨hm, hw, h10, h100, h1, habsent, href, hstart⟩

theorem lossDetected_legal {s : State} (hs : s.ClockLegal) : s.lossDetected.ClockLegal := by
  unfold State.lossDetected
  split_ifs with hr hst
  · refine clockLegal_congr (admission_kept _ _).clock ?_
    obtain ⟨hm, hw, h10, h100, h1, habsent, href, hstart⟩ := hs
    exact ⟨by simp [Clock.loseRef], by simp [Clock.loseRef], h10, h100, h1, by simp [Clock.loseRef],
      fun h => absurd h (by simp), fun h => absurd h (by simp)⟩
  · obtain ⟨hm, hw, h10, h100, h1, habsent, href, hstart⟩ := hs
    exact ⟨by simp [Clock.loseRef], by simp [Clock.loseRef], h10, h100, h1, by simp [Clock.loseRef],
      fun h => absurd h hst, by simp [Clock.loseRef]⟩
  · exact hs

theorem restartDivider_legal {s : State} (hs : s.ClockLegal) (period : Period) :
    State.ClockLegal { s with clock := s.clock.restartDivider period } := by
  obtain ⟨hm, hw, h10, h100, h1, habsent, href, hstart⟩ := hs
  cases period with
  | us10 => exact ⟨hm, hw, by simp [Clock.restartDivider], h100, h1, habsent, href, hstart⟩
  | us100 => exact ⟨hm, hw, h10, by simp [Clock.restartDivider], h1, habsent, href, hstart⟩
  | ms1 => exact ⟨hm, hw, h10, h100, h1, habsent, href, hstart⟩

theorem clockLegal_rule {s t : State} {p : HostId} (hs : s.ClockLegal) (h : RuleEffect s p t) : t.ClockLegal := by
  rcases RuleEffect.kept_or h with hk | ⟨n, c, -, -, -, -, rfl⟩ | ⟨n, c, -, -, -, rfl⟩ | ⟨hb, hm, rfl⟩
  · exact clockLegal_congr hk.clock hs
  · refine clockLegal_congr ((writeRoute_kept s n c).clock.trans ?_) hs
    unfold State.storeRoute
    dsimp only
    split <;> rfl
  · exact hs
  · obtain ⟨hmax, hw, h10, h100, h1, habsent, href, hstart⟩ := hs
    refine ⟨hmax, hw, h10, h100, h1, habsent, fun _ => ?_, fun h => absurd h (by simp)⟩
    exact Bool.eq_true_of_not_eq_false fun h => absurd (habsent h) (by omega)

theorem clockLegal_keptByEvents : KeptByEvents State.ClockLegal where
  reset _ _ _ := by simp [State.ClockLegal, State.deviceReset, State.resetWith, Clock.atReset]
  queue _ _ hs := hs
  port _ _ _ hs := hs
  drive _ hs := hs
  awake s p hs := clockLegal_congr (returnToRun_kept s p).clock hs
  rule _ _ _ _ hs h := clockLegal_rule hs h
  millisecond s hs := by
    obtain ⟨hm, hw, h10, h100, h1, habsent, href, hstart⟩ := hs
    exact ⟨hm, hw, h10, h100, by simp [State.millisecond], habsent, href, hstart⟩
  sample _ period levels order hs :=
    sampleAll_keeps levels order (fun u n b hu _ => clockLegal_congr (sampleLine_kept u n b).clock hu)
      (restartDivider_legal hs period)
  deadline s i h hs := clockLegal_congr (deadlineExpiry_kept s i h).clock hs
  loss s h hs := clockLegal_congr (loseHost_kept s h).clock hs
  refLost _ hs := lossDetected_legal hs
  risingEdge _ hs := risingEdge_legal hs
  stable _ hs := becomeStable_legal hs
  cycle _ hs := oscillate_legal hs

/-- Settles O60: each row that writes the clock keeps its ranges, and no other event touches it. -/
theorem clockStaysLegal : Obligations.ClockStaysLegal := fun _ _ hs h => clockLegal_keptByEvents.step hs h

/-- Settles O4: an oscillator cycle reads and writes the clock alone, each count by `oneCycle`. -/
theorem emptyQueuePassesOneCycle : Obligations.EmptyQueuePassesOneCycle := by
  intro s hs
  refine ⟨s.oscillatorCycle, by unfold step; rw [hs], ?_⟩
  unfold State.oscillatorCycle Clock.oscillate Clock.divide oneCycle Config.stableCycles Config.lossCycles
    Config.cyclesUs10 Config.cyclesUs100 Config.cyclesMs1
  have hlt : ∀ n k : Nat, n + 1 < k + 1 ↔ n < k := fun n k => Nat.succ_lt_succ_iff
  refine ⟨rfl, ?_⟩
  cases hr : s.clock.refPresent <;> cases hst : s.clock.state <;> simp [hlt _ 3999, hlt _ 7, hlt _ 39, hlt _ 399, hst, hr]

/-! ## Routes -/

/-- The invariant reads the configurations and the administrator alone. -/
theorem routesLegal_congr {s t : State} (hc : ∀ n, (t.route n).config = (s.route n).config)
    (ha : t.administrator = s.administrator) (hs : s.RoutesLegal) : t.RoutesLegal := by
  intro n
  rw [hc, ha]
  exact hs n

theorem routesLegal_of_kept {s t : State} (h : Kept s t) (hs : s.RoutesLegal) : t.RoutesLegal :=
  routesLegal_congr h.config h.administrator hs

theorem storeRoute_config (s : State) (n k : SourceId) (c : RouteConfig) :
    ((s.storeRoute n c).route k).config = if k = n then c else (s.route k).config := by
  have h : ((s.setRoute n { s.route n with config := c }).route k).config
      = if k = n then c else (s.route k).config := by
    rw [route_setRoute]
    split <;> rfl
  unfold State.storeRoute
  dsimp only
  split <;> exact h

theorem storeRoute_lines (s : State) (n : SourceId) (c : RouteConfig) : (s.storeRoute n c).lines = s.lines := by
  unfold State.storeRoute
  dsimp only
  split <;> rfl

theorem storeRoute_administrator (s : State) (n : SourceId) (c : RouteConfig) :
    (s.storeRoute n c).administrator = s.administrator := by
  unfold State.storeRoute
  dsimp only
  split <;> rfl

theorem storeRoute_routesLegal {s : State} {n : SourceId} {c : RouteConfig} (hs : s.RoutesLegal) (hc : c.inRange)
    (hposters : n.val < 32 → c.posters = 0) (hsys : isSystem n = true → c.depth = 1 ∧ c.owner = s.administrator) :
    (s.storeRoute n c).RoutesLegal := by
  intro k
  rw [storeRoute_config, storeRoute_administrator]
  split
  · next hk =>
    subst hk
    obtain ⟨hp1, hp2, hd1, hd2, ht⟩ := hc
    exact ⟨hp1, hp2, hd1, hd2, ht, hposters, hsys⟩
  · exact hs k

theorem routesLegal_rule {s t : State} {p : HostId} (hs : s.RoutesLegal) (h : RuleEffect s p t) : t.RoutesLegal := by
  rcases RuleEffect.kept_or h with hk | ⟨n, c, hc, hp, hsys, -, rfl⟩ | ⟨n, c, -, -, -, rfl⟩ | ⟨-, -, rfl⟩
  · exact routesLegal_of_kept hk hs
  · exact routesLegal_of_kept (writeRoute_kept s n c) (storeRoute_routesLegal hs hc hp hsys)
  · exact hs
  · exact hs

theorem resetWith_routesLegal (adm : HostId) : (State.resetWith adm).RoutesLegal := by
  intro n
  have hn : (State.resetWith adm).route n = Route.atReset adm := vget_replicate _ n
  rw [hn]
  exact ⟨Nat.le_refl 1, Nat.le_of_ble_eq_true rfl, Nat.le_refl 1, Nat.le_of_ble_eq_true rfl, Nat.zero_le _, fun _ => rfl,
    fun _ => ⟨rfl, rfl⟩⟩

theorem lossDetected_routesLegal {s : State} (hs : s.RoutesLegal) : s.lossDetected.RoutesLegal := by
  unfold State.lossDetected
  split_ifs
  · exact routesLegal_of_kept (admission_kept _ _) hs
  · exact hs
  · exact hs

theorem routesLegal_keptByEvents : KeptByEvents State.RoutesLegal where
  reset _ pins _ := resetWith_routesLegal pins.straps
  queue _ _ hs := hs
  port _ _ _ hs := hs
  drive _ hs := hs
  awake s p hs := routesLegal_of_kept (returnToRun_kept s p) hs
  rule _ _ _ _ hs h := routesLegal_rule hs h
  millisecond _ hs := hs
  sample _ _ levels order hs :=
    sampleAll_keeps levels order (fun u n b hu _ => routesLegal_of_kept (sampleLine_kept u n b) hu) hs
  deadline s i h hs := routesLegal_of_kept (deadlineExpiry_kept s i h) hs
  loss s h hs := routesLegal_of_kept (loseHost_kept s h) hs
  refLost _ hs := lossDetected_routesLegal hs
  risingEdge _ hs := hs
  stable _ hs := hs
  cycle _ hs := hs

/-! ## Lines -/

theorem line_congr {s t : State} (h : t.lines = s.lines) (n : LineId) : t.line n = s.line n := by
  unfold State.line
  rw [h]

/-- The invariant reads the lines and the depths of their routes alone. -/
theorem linesLegal_of_kept {s t : State} (h : Kept s t) (hs : s.LinesLegal) : t.LinesLegal := by
  have hline := line_congr h.lines
  have hmembers : ∀ g, t.members g = s.members g := fun g => by simp only [State.members, hline]
  refine ⟨fun n => ?_, fun g => ?_⟩
  · rw [hline, h.config]
    exact hs.1 n
  · rw [hmembers]
    exact hs.2 g

/-- Two tests of the indices that agree but at `i` count the same but for `i`. -/
theorem countP_finRange_change {n : Nat} (i : Fin n) (f g : Fin n → Bool) (h : ∀ j, j ≠ i → f j = g j) :
    (List.finRange n).countP f + (if g i = true then 1 else 0)
      = (List.finRange n).countP g + (if f i = true then 1 else 0) := by
  have hsame : ∀ l : List (Fin n), i ∉ l → l.countP f = l.countP g := fun l hl =>
    List.countP_congr fun j hj => by rw [h j (fun e => hl (e ▸ hj))]
  have key : ∀ l : List (Fin n), l.Nodup → i ∈ l →
      l.countP f + (if g i = true then 1 else 0) = l.countP g + (if f i = true then 1 else 0) := by
    intro l hn hi
    induction l with
    | nil => cases hi
    | cons x xs ih =>
      obtain ⟨hx, hxs⟩ := List.nodup_cons.mp hn
      rw [List.countP_cons, List.countP_cons]
      rcases List.mem_cons.mp hi with rfl | hmem
      · rw [hsame xs hx]
        omega
      · have hxi : x ≠ i := fun e => hx (e ▸ hmem)
        have := ih hxs hmem
        rw [h x hxi]
        omega
  exact key _ (List.nodup_finRange n) (List.mem_finRange i)

theorem countP_allLines_change (n : LineId) (f g : LineId → Bool) (h : ∀ k, k ≠ n → f k = g k) :
    allLines.countP f + (if g n = true then 1 else 0) = allLines.countP g + (if f n = true then 1 else 0) :=
  countP_finRange_change n f g h

theorem members_length (s : State) (g : GroupId) :
    (s.members g).length = allLines.countP (fun n => (s.line n).config.group == some g) :=
  List.countP_eq_length_filter.symm

/-- A line written with room in its group leaves every group with at most 8 members (R119, R120). -/
theorem members_setLine_le {s : State} {n : LineId} {l : Line} (hs : ∀ g, (s.members g).length ≤ 8)
    (hroom : s.groupFull (s.line n).config.group l.config.group = false) (g : GroupId) :
    ((s.setLine n l).members g).length ≤ 8 := by
  have hle := hs g
  have hcount := countP_allLines_change n (fun k => ((s.setLine n l).line k).config.group == some g)
    (fun k => (s.line k).config.group == some g) (fun j hj => by rw [line_setLine_other _ _ _ _ hj])
  rw [members_length] at hle ⊢
  simp only [line_setLine_same] at hcount
  by_cases hg : l.config.group = some g
  · by_cases hold : (s.line n).config.group = some g
    · rw [if_pos (by simpa using hold), if_pos (by simpa using hg)] at hcount
      omega
    · have hlt := EventLines.groupFull_eq_false.mp hroom g hg (by rw [hg]; exact Ne.symm hold)
      rw [members_length] at hlt
      rw [if_neg (by simpa using hold), if_pos (by simpa using hg)] at hcount
      omega
  · rw [if_neg (c := (l.config.group == some g) = true) (by simpa using hg)] at hcount
    omega

/-- A line's own part of the invariant (R104, R105, R106, R108). -/
def LineLegal (s : State) (n : LineId) (l : Line) : Prop :=
  1 ≤ l.config.q ∧ l.config.q ≤ 15 ∧ l.qual.disagreement < l.config.q
    ∧ (l.config.mode = .off →
        l.qual = { lastSample := false, level := false, disagreement := 0, firstPending := false })
    ∧ (l.config.mode.isLevel = true → l.config.group = none ∧ (s.route (lineSource n)).config.depth ≤ 1)

theorem setLine_linesLegal {s : State} {n : LineId} {l : Line} (hs : s.LinesLegal) (hl : LineLegal s n l)
    (hroom : s.groupFull (s.line n).config.group l.config.group = false) : (s.setLine n l).LinesLegal := by
  refine ⟨fun k => ?_, members_setLine_le hs.2 hroom⟩
  rw [line_setLine, route_setLine]
  split
  · next hk => subst hk; exact hl
  · exact hs.1 k

theorem written_legal {s : State} {n : LineId} {c : LineConfig} (hs : s.LinesLegal) (hc : c.inRange)
    (hlevel : c.mode.isLevel = true → c.group = none ∧ (s.route (lineSource n)).config.depth ≤ 1) :
    LineLegal s n ((s.line n).written c) := by
  obtain ⟨-, -, hd, -, -⟩ := hs.1 n
  obtain ⟨hq1, hq2⟩ := hc
  refine ⟨hq1, hq2, ?_, fun hoff => if_pos hoff, hlevel⟩
  show (if c.mode = .off then _ else _ : Qualification).disagreement < c.q
  split_ifs with hoff hsame
  · exact hq1
  · rw [hsame.2.2]; exact hd
  · exact hq1

theorem sampled_legal {s : State} {n : LineId} (hs : s.LinesLegal) (hmode : (s.line n).config.mode ≠ .off) (b : Bool) :
    LineLegal s n ((s.line n).sampled b) := by
  obtain ⟨hq1, hq2, hd, -, hlevel⟩ := hs.1 n
  refine ⟨hq1, hq2, ?_, fun hoff => absurd hoff hmode, hlevel⟩
  show (if _ then _ else _ : Qualification).disagreement < (s.line n).config.q
  split_ifs with hfirst hsame hfull
  · exact hq1
  · exact hq1
  · exact hq1
  · exact Nat.lt_of_not_le hfull

theorem groupFull_self (s : State) (g : Option GroupId) : s.groupFull g g = false :=
  EventLines.groupFull_eq_false.mpr fun _ _ h => absurd rfl h

theorem storeRoute_linesLegal {s : State} {n : SourceId} {c : RouteConfig} (hs : s.LinesLegal)
    (hlevel : s.levelLineSource n = true → c.depth ≤ 1) : (s.storeRoute n c).LinesLegal := by
  have hline := line_congr (storeRoute_lines s n c)
  have hmembers : ∀ g, (s.storeRoute n c).members g = s.members g := fun g => by simp only [State.members, hline]
  refine ⟨fun l => ?_, fun g => by rw [hmembers]; exact hs.2 g⟩
  obtain ⟨hq1, hq2, hd, hoff, hlev⟩ := hs.1 l
  rw [hline, storeRoute_config]
  refine ⟨hq1, hq2, hd, hoff, fun hmode => ⟨(hlev hmode).1, ?_⟩⟩
  split
  · next hn =>
    refine hlevel ?_
    have hl : lineOfSource n = some l := by simp [lineOfSource, ← hn, lineSource]
    simpa [State.levelLineSource, hl] using hmode
  · exact (hlev hmode).2

theorem linesLegal_rule {s t : State} {p : HostId} (hs : s.LinesLegal) (h : RuleEffect s p t) : t.LinesLegal := by
  rcases RuleEffect.kept_or h with hk | ⟨n, c, -, -, -, hl, rfl⟩ | ⟨n, c, hc, hl, hg, rfl⟩ | ⟨-, -, rfl⟩
  · exact linesLegal_of_kept hk hs
  · exact linesLegal_of_kept (writeRoute_kept s n c) (storeRoute_linesLegal hs hl)
  · exact setLine_linesLegal hs (written_legal hs hc hl) hg
  · exact hs

theorem resetWith_linesLegal (adm : HostId) : (State.resetWith adm).LinesLegal := by
  have hline : ∀ n, (State.resetWith adm).line n = Line.atReset := fun n => vget_replicate _ n
  refine ⟨fun n => ?_, fun g => ?_⟩
  · rw [hline]
    exact ⟨by decide, by decide, by decide, fun _ => rfl, fun h => absurd h (by decide)⟩
  · simp [State.members, hline, Line.atReset]

theorem lossDetected_linesLegal {s : State} (hs : s.LinesLegal) : s.lossDetected.LinesLegal := by
  unfold State.lossDetected
  split_ifs
  · exact linesLegal_of_kept (admission_kept _ _) hs
  · exact hs
  · exact hs

theorem linesLegal_keptByEvents : KeptByEvents State.LinesLegal where
  reset _ pins _ := resetWith_linesLegal pins.straps
  queue _ _ hs := hs
  port _ _ _ hs := hs
  drive _ hs := hs
  awake s p hs := linesLegal_of_kept (returnToRun_kept s p) hs
  rule _ _ _ _ hs h := linesLegal_rule hs h
  millisecond _ hs := hs
  sample _ _ levels order hs :=
    sampleAll_keeps levels order
      (fun u n b hu hmode =>
        linesLegal_of_kept (sampleLine_kept u n b) (setLine_linesLegal hu (sampled_legal hu hmode b) (groupFull_self u _)))
      hs
  deadline s i h hs := linesLegal_of_kept (deadlineExpiry_kept s i h) hs
  loss s h hs := linesLegal_of_kept (loseHost_kept s h) hs
  refLost _ hs := lossDetected_linesLegal hs
  risingEdge _ hs := hs
  stable _ hs := hs
  cycle _ hs := hs

/-- Settles O55: ROUTE_WRITE, LINE_WRITE and the samples write what the invariants allow, and nothing else writes a route's fields or
a line. -/
theorem configurationStaysLegal : Obligations.ConfigurationStaysLegal := fun _ _ hr hl h =>
  ⟨routesLegal_keptByEvents.step hr h, linesLegal_keptByEvents.step hl h⟩

end Sys2Proof.Proofs.Configuration
end

section
/-! PROOFS. The operations on records, taken apart: what touches one slot only, what a raw event or a handoff is made of, and the invariant that
every live record has a non-terminal copy (R11, R60). -/

namespace Sys2Proof.Proofs.RecordLife

open Sys2Proof Sys2Proof.Machine Sys2Proof.Proofs.StepEffects Sys2Proof.Proofs.Configuration

/-! ## Reading copies -/

theorem copy?_of_record {s : State} {i : SlotId} {r : Record} (hr : s.record? i = some r) (h : HostId) :
    s.copy? i h = r.copy h := by
  simp only [State.copy?, hr]

theorem copy?_of_free {s : State} {i : SlotId} (hr : s.record? i = none) (h : HostId) : s.copy? i h = none := by
  simp only [State.copy?, hr]

theorem copy?_eq_some {s : State} {i : SlotId} {h : HostId} {c : Copy} :
    s.copy? i h = some c ↔ ∃ r, s.record? i = some r ∧ r.copy h = some c := by
  unfold State.copy?
  cases s.record? i <;> simp

theorem copy?_congr {s t : State} {i : SlotId} (hr : t.record? i = s.record? i) (h : HostId) : t.copy? i h = s.copy? i h := by
  simp only [State.copy?, hr]

theorem record?_setCopy (s : State) (i j : SlotId) (h : HostId) (c : Copy) :
    (s.setCopy i h c).record? j = if j = i then (s.record? i).map (fun r => r.setCopy h c) else s.record? j :=
  record?_modifyRecord s i j _

theorem copy_setCopy (r : Record) (h k : HostId) (c : Copy) :
    (r.setCopy h c).copy k = if k = h then some c else r.copy k := by
  split
  · next e => subst e; exact copy_setCopy_same r _ c
  · next e => exact copy_setCopy_other r h k c e

theorem copy_modifyCopy (r : Record) (h k : HostId) (f : Copy → Copy) :
    (r.modifyCopy h f).copy k = if k = h then (r.copy h).map f else r.copy k := by
  unfold Record.modifyCopy
  cases hc : r.copy h with
  | none => split <;> simp_all
  | some c => rw [copy_setCopy]; rfl

theorem record?_mapCopies (s : State) (h : HostId) (f : Copy → Copy) (i : SlotId) :
    (s.mapCopies h f).record? i = (s.record? i).map (fun r => r.modifyCopy h f) := by
  have hslot : (s.mapCopies h f).slot i = _ := vget_vof _ i
  unfold State.record?
  rw [hslot]
  unfold State.record?
  cases (s.slot i).record <;> rfl

theorem slot_modifyRecord (s : State) (i j : SlotId) (f : Record → Record) :
    (s.modifyRecord i f).slot j = if j = i then { s.slot i with record := (s.record? i).map f } else s.slot j := by
  unfold State.modifyRecord
  cases hr : s.record? i with
  | none =>
    show s.slot j = _
    split_ifs with e
    · subst e
      have hnone : (s.slot j).record = none := hr
      cases hs : s.slot j
      simp_all
    · rfl
  | some r =>
    show (s.setRecord i (f r)).slot j = _
    rw [State.setRecord, slot_setSlot]
    rfl

theorem record?_millisecond (s : State) (i : SlotId) : s.millisecond.record? i = (s.record? i).map Record.tick := by
  have hslot : s.millisecond.slot i = _ := vget_vof _ i
  unfold State.record?
  rw [hslot]
  rfl

theorem copy_tick (r : Record) (h : HostId) : r.tick.copy h = (r.copy h).map Copy.tick := vget_vof _ h

theorem tick_state (c : Copy) : c.tick.state = c.state := by
  unfold Copy.tick
  split <;> rfl

/-! ## Operations on one slot -/

/-- Every slot but `i` is as before. -/
def OnlySlot (i : SlotId) (s t : State) : Prop := ∀ j, j ≠ i → t.slot j = s.slot j

theorem OnlySlot.refl (i : SlotId) (s : State) : OnlySlot i s s := fun _ _ => rfl

theorem OnlySlot.trans {i : SlotId} {s t u : State} (h : OnlySlot i s t) (k : OnlySlot i t u) : OnlySlot i s u :=
  fun j hj => (k j hj).trans (h j hj)

theorem OnlySlot.record? {i j : SlotId} {s t : State} (h : OnlySlot i s t) (hj : j ≠ i) : t.record? j = s.record? j :=
  congrArg Slot.record (h j hj)

theorem OnlySlot.of_store {i : SlotId} {s t : State} (h : t.store = s.store) : OnlySlot i s t := fun j _ => by
  unfold State.slot
  rw [h]

theorem OnlySlot.foldl {α : Type} {i : SlotId} (f : State → α → State) (hf : ∀ s x, OnlySlot i s (f s x)) (l : List α)
    (s : State) : OnlySlot i s (l.foldl f s) := by
  induction l generalizing s with
  | nil => exact OnlySlot.refl i s
  | cons x xs ih => exact (hf s x).trans (ih _)

theorem setSlot_onlySlot (s : State) (i : SlotId) (x : Slot) : OnlySlot i s (s.setSlot i x) :=
  fun _ hj => slot_setSlot_other _ _ _ _ hj

theorem modifyRecord_onlySlot (s : State) (i : SlotId) (f : Record → Record) : OnlySlot i s (s.modifyRecord i f) := by
  intro j hj
  rw [slot_modifyRecord, if_neg hj]

theorem setCopy_onlySlot (s : State) (i : SlotId) (h : HostId) (c : Copy) : OnlySlot i s (s.setCopy i h c) :=
  modifyRecord_onlySlot s i _

theorem withdrawCopy_onlySlot (s : State) (i : SlotId) (h : HostId) : OnlySlot i s (s.withdrawCopy i h) := by
  unfold State.withdrawCopy
  split
  · exact OnlySlot.refl i s
  · split
    · exact setCopy_onlySlot s i h _
    · exact setCopy_onlySlot s i h _
    · exact setCopy_onlySlot s i h _
    · exact setCopy_onlySlot s i h _
    · exact OnlySlot.refl i s

theorem withdraw_onlySlot (s : State) (i : SlotId) : OnlySlot i s (s.withdraw i) :=
  OnlySlot.foldl _ (fun t h => withdrawCopy_onlySlot t i h) _ s

theorem markPurged_onlySlot (s : State) (i : SlotId) : OnlySlot i s (s.markPurged i) := modifyRecord_onlySlot s i _

theorem wakeFor_store (s : State) (h : HostId) (i : SlotId) : (s.wakeFor h i).store = s.store := by
  unfold State.wakeFor
  split <;> rfl

theorem escalate_onlySlot (s : State) (i : SlotId) (trigger : HostId) : OnlySlot i s (s.escalate i trigger) := by
  unfold State.escalate
  split
  · exact OnlySlot.refl i s
  · split
    · exact OnlySlot.refl i s
    · split
      · exact (setSlot_onlySlot s i _).trans (OnlySlot.of_store (wakeFor_store _ _ _))
      · exact OnlySlot.refl i s

theorem endStale_onlySlot (s : State) (i : SlotId) (h : HostId) : OnlySlot i s (s.endStale i h) := by
  unfold State.endStale
  split
  · exact OnlySlot.refl i s
  · split
    · exact setCopy_onlySlot s i h _
    · exact OnlySlot.refl i s

theorem satisfy_onlySlot (s : State) (i : SlotId) : OnlySlot i s (s.satisfy i) := by
  unfold State.satisfy
  split
  · exact OnlySlot.refl i s
  · split
    · exact withdraw_onlySlot s i
    · exact OnlySlot.refl i s

theorem slot_closeRecord (s : State) (i j : SlotId) (r : Record) :
    (s.closeRecord i r).slot j = if j = i then { generation := (s.slot i).generation + 1, record := none } else s.slot j := by
  rw [closeRecord_eq]
  exact vget_vset _ _ _ _

theorem closeRecord_onlySlot (s : State) (i : SlotId) (r : Record) : OnlySlot i s (s.closeRecord i r) :=
  fun j hj => (slot_closeRecord s i j r).trans (if_neg hj)

theorem record?_closeRecord_same (s : State) (i : SlotId) (r : Record) : (s.closeRecord i r).record? i = none :=
  congrArg Slot.record ((slot_closeRecord s i i r).trans (if_pos rfl))

/-! ## What a raw event or a handoff is made of -/

/-- `r'` is `r` with repeats counted and members listed at most. -/
structure Noted (r r' : Record) : Prop where
  same : r' = { r with repeats := r'.repeats, particulars := r'.particulars }
  reserved : ∀ h, r'.reservedBy h = r.reservedBy h

theorem Noted.copies {r r' : Record} (h : Noted r r') : r'.copies = r.copies := by rw [h.same]

theorem Noted.copy {r r' : Record} (h : Noted r r') (k : HostId) : r'.copy k = r.copy k := by
  unfold Record.copy
  rw [h.copies]

theorem Noted.source {r r' : Record} (h : Noted r r') : r'.source = r.source := by rw [h.same]

theorem Noted.priority {r r' : Record} (h : Noted r r') : r'.priority = r.priority := by rw [h.same]

theorem addRepeat_noted (r : Record) : Noted r r.addRepeat := ⟨rfl, fun _ => rfl⟩

theorem merge_noted (r : Record) (m : LineId) : Noted r (r.merge m) := by
  unfold Record.merge
  split
  · next hk => exact ⟨rfl, fun h => by simp [Record.reservedBy, hk]⟩
  · exact ⟨rfl, fun _ => rfl⟩

/-- What raw events and handoffs are made of: last outcomes, the wait list, repeats and members, and records made in the lowest FREE slot
for recipients. -/
inductive Admits (s : State) : State → Prop where
  | refl : Admits s s
  | outcome {t : State} (n : SourceId) (o : LastOutcome) : Admits s t → Admits s (t.setLastOutcome n o)
  | wait {t : State} (l : List WaitEntry) : Admits s t → Admits s { t with waitList := l }
  | note {t : State} (i : SlotId) (f : Record → Record) : (∀ r, Noted r (f r)) → Admits s t → Admits s (t.modifyRecord i f)
  | make {t u : State} (n : SourceId) (i : SlotId) (k : Particulars) (delayed : Bool) (repeats : Nat)
      (hosts : List HostId) (esc : Bool) :
      (∀ payload p x, k ≠ .posted payload p x) → Recipients t (t.route n).config hosts esc → LowestFree t i →
      Created t u i (madeRecord t n k delayed repeats hosts esc) hosts → Admits s t → Admits s u

theorem Admits.trans {s t u : State} (h : Admits s t) (k : Admits t u) : Admits s u := by
  induction k with
  | refl => exact h
  | outcome n o _ ih => exact .outcome n o ih
  | wait l _ ih => exact .wait l ih
  | note i f hf _ ih => exact .note i f hf ih
  | make n i k delayed repeats hosts esc hk hr hi hc _ ih => exact .make n i k delayed repeats hosts esc hk hr hi hc ih

theorem allocate?_lowestFree {s : State} {n : SourceId} {i : SlotId} (h : s.allocate? n = some i) : LowestFree s i := by
  unfold State.allocate? at h
  split at h
  · exact lowestFree_eq_some.mp h
  · cases h

/-- A record created for recipients in an allocated slot. -/
theorem createRecord_of_allocated {s : State} {n m : SourceId} {i : SlotId} {k : Particulars} {hosts : List HostId} {esc : Bool}
    (delayed : Bool) (repeats : Nat) (hr : Recipients s (s.route n).config hosts esc) (_hi : s.allocate? m = some i) :
    Created s (s.createRecord i (s.newRecord n k delayed repeats) hosts esc) i
      (madeRecord s n k delayed repeats hosts esc) hosts :=
  createRecord_created s i n k delayed repeats hosts esc hr.nodup hr.usable

theorem particulars_unposted (ev : RawEvent) : ∀ payload p x, ev.particulars ≠ .posted payload p x := by
  intro payload p x
  cases ev <;> exact Particulars.noConfusion

theorem waitEntry_unposted (e : WaitEntry) : ∀ payload p x, e.particulars ≠ .posted payload p x := by
  intro payload p x
  unfold WaitEntry.particulars
  split <;> exact Particulars.noConfusion

theorem joinWaitList_admits (s : State) (ev : RawEvent) : Admits s (s.joinWaitList ev) := by
  unfold State.joinWaitList
  split
  · exact .refl
  · exact .wait _ .refl

theorem admitNew_admits (s : State) (ev : RawEvent) : Admits s (s.admitNew ev) := by
  unfold State.admitNew
  split
  · exact .outcome _ _ .refl
  · next hosts esc hr =>
    have hrec := recipients_eq_some.mp hr
    split
    · exact joinWaitList_admits s ev
    · next i hi =>
      exact .make ev.source i ev.particulars false 0 hosts esc (particulars_unposted ev) hrec (allocate?_lowestFree hi)
        (createRecord_of_allocated false 0 hrec hi) .refl

theorem coalesce_admits (s : State) (n : SourceId) : Admits s (s.coalesce n) := by
  unfold State.coalesce
  split
  · exact .refl
  · exact .note _ _ addRepeat_noted .refl

theorem admitClosed_admits (s : State) (ev : RawEvent) : Admits s (s.admitClosed ev) := by
  unfold State.admitClosed
  split
  · exact .wait _ .refl
  · split
    · exact coalesce_admits s _
    · exact admitNew_admits s ev

theorem admitOne_admits (s : State) (ev : RawEvent) : Admits s (s.admitOne ev) := by
  unfold State.admitOne
  split
  · unfold State.admitEnabled
    split
    · split
      · exact .note _ _ (fun r => merge_noted r _) .refl
      · exact admitClosed_admits s _
    · exact admitClosed_admits s _
  · exact .refl

theorem admission_admits (s : State) (ev : RawEvent) : Admits s (s.admission ev) := by
  unfold State.admission
  dsimp only
  split
  · exact (admitOne_admits s ev).trans (admitOne_admits _ _)
  · exact admitOne_admits s ev

theorem handoffRounds_admits (k : Nat) (s : State) : Admits s (handoffRounds k s) := by
  induction k generalizing s with
  | zero => exact .refl
  | succ k ih =>
    unfold handoffRounds
    split
    · exact .refl
    · next e rest _ =>
      split
      · exact (Admits.wait rest .refl).trans (ih _)
      · split
        · exact (Admits.wait _ (.outcome _ _ .refl)).trans (ih _)
        · next hosts esc hr =>
          have hrec := recipients_eq_some.mp hr
          split
          · exact .refl
          · next i hi =>
            exact .wait _ (.make e.source i e.particulars true e.repeats hosts esc (waitEntry_unposted e) hrec
              (allocate?_lowestFree hi) (createRecord_of_allocated true e.repeats hrec hi) .refl)

theorem handoff_admits (s : State) : Admits s s.handoff := handoffRounds_admits _ s

theorem levelRecheck_admits (s : State) (n : LineId) : Admits s (s.levelRecheck n) := by
  unfold State.levelRecheck
  split
  · exact admission_admits s _
  · exact .refl

/-- Past the closing of its record, a retirement is made of what admissions are made of (R15, steps 5 and 6). -/
theorem retire_admits (s : State) (i : SlotId) (r : Record) : Admits (s.closeRecord i r) (s.retire i r) := by
  have hoffer : Admits (s.closeRecord i r) ((s.closeRecord i r).offerFreed r) := by
    unfold State.offerFreed
    split
    · exact .refl
    · exact handoff_admits _
  refine hoffer.trans ?_
  show Admits _ (State.recheckLine _ r)
  unfold State.recheckLine
  split
  · exact .refl
  · exact levelRecheck_admits _ _

/-- The judgement of retirement leaves the state alone, or closes a finished record and admits what follows from it (R11, R15). -/
theorem judge_cases (s : State) (i : SlotId) :
    (s.judge i = s ∧ ∀ r, s.record? i = some r → r.finished = false)
    ∨ ∃ r, s.record? i = some r ∧ r.finished = true ∧ Admits (s.closeRecord i r) (s.judge i) := by
  unfold State.judge
  cases hr : s.record? i with
  | none => exact .inl ⟨rfl, by simp⟩
  | some r =>
    cases hf : r.finished with
    | false => exact .inl ⟨by simp [hf], by simpa using hf⟩
    | true => exact .inr ⟨r, rfl, hf, by simpa [hf] using retire_admits s i r⟩

/-- A sample is a line's write and, for the rest, what admissions are made of. -/
theorem sampleLine_admits (s : State) (n : LineId) (b : Bool) :
    Admits (s.setLine n ((s.line n).sampled b)) (s.sampleLine n b) := by
  have hlevel : ∀ t : State, Admits t (t.levelEvent n b) := fun t => by
    unfold State.levelEvent
    split
    · exact admission_admits t _
    · exact .refl
  unfold State.sampleLine State.qualifiedChange
  dsimp only
  split_ifs
  · exact hlevel _
  · exact admission_admits _ _
  · exact hlevel _
  · exact .refl

/-- Past the write of its fields, and the drop of its wait entry at a disable, a ROUTE_WRITE is what admissions are made of. -/
theorem writeRoute_admits (s : State) (n : SourceId) (c : RouteConfig) :
    Admits (s.setRoute n { s.route n with config := c }) (s.writeRoute n c) := by
  have hstore : Admits (s.setRoute n { s.route n with config := c }) (s.storeRoute n c) := by
    unfold State.storeRoute
    dsimp only
    split
    · exact .wait _ .refl
    · exact .refl
  unfold State.writeRoute State.enableRearm
  split
  · split
    · exact hstore
    · exact hstore.trans (levelRecheck_admits _ _)
  · exact hstore

/-! ## Records with a non-terminal copy -/

theorem finished_eq_false_iff {r : Record} : r.finished = false ↔ ∃ h c, r.copy h = some c ∧ c.state.terminal = false := by
  rw [← Bool.not_eq_true, finished_iff]
  push Not
  simp

theorem finished_congr {r r' : Record} (h : ∀ k, (r'.copy k).map Copy.state = (r.copy k).map Copy.state) :
    r'.finished = r.finished := by
  have key : ∀ {a b : Record}, (∀ k, (a.copy k).map Copy.state = (b.copy k).map Copy.state) →
      a.finished = false → b.finished = false := by
    intro a b hab ha
    obtain ⟨k, c, hc, ht⟩ := finished_eq_false_iff.mp ha
    have hk := hab k
    rw [hc] at hk
    obtain ⟨d, hd, hs⟩ := Option.map_eq_some_iff.mp hk.symm
    exact finished_eq_false_iff.mpr ⟨k, d, hd, by rw [hs]; exact ht⟩
  cases hr : r.finished with
  | false => exact key (fun k => (h k).symm) hr
  | true =>
    by_contra hne
    exact Bool.noConfusion (hr.symm.trans (key h (Bool.eq_false_of_not_eq_true hne)))

/-- Every live record has a non-terminal copy. -/
def Unfinished (s : State) : Prop := ∀ i r, s.record? i = some r → r.finished = false

theorem unfinished_iff {s : State} : s.RecordsUnfinished ↔ Unfinished s := by
  unfold State.RecordsUnfinished Unfinished
  refine forall_congr' fun i => ?_
  cases s.record? i <;> simp

/-- Every live record but the one in slot `i` has a non-terminal copy. -/
def UnfinishedBut (i : SlotId) (s : State) : Prop := ∀ j r, j ≠ i → s.record? j = some r → r.finished = false

theorem UnfinishedBut.of_unfinished {s : State} (h : Unfinished s) (i : SlotId) : UnfinishedBut i s :=
  fun j r _ hr => h j r hr

theorem UnfinishedBut.onlySlot {i : SlotId} {s t : State} (h : UnfinishedBut i s) (hst : OnlySlot i s t) :
    UnfinishedBut i t := fun j r hj hr => h j r hj (by rw [← hst.record? hj]; exact hr)

/-- With the record of slot `i` unfinished or gone, every record is unfinished. -/
theorem UnfinishedBut.all {i : SlotId} {s : State} (h : UnfinishedBut i s)
    (hi : ∀ r, s.record? i = some r → r.finished = false) : Unfinished s := by
  refine fun j r hr => ?_
  by_cases hj : j = i
  · subst hj; exact hi r hr
  · exact h j r hj hr

theorem madeCopyState_not_terminal (x : HostState) (deepWake : Bool) : (madeCopyState x deepWake).terminal = false := by
  unfold madeCopyState
  split <;> rfl

theorem copy_madeRecord (s : State) (n : SourceId) (k : Particulars) (delayed : Bool) (repeats : Nat) (hosts : List HostId)
    (esc : Bool) (h : HostId) :
    (madeRecord s n k delayed repeats hosts esc).copy h =
      if h ∈ hosts then
        some { state := madeCopyState (s.host h).state (s.route n).config.deepWake
               deadline :=
                 if esc = true ∨ (s.route n).config.deadline = 0 then none else some (s.route n).config.deadline
               grace := none
               escalation := esc }
      else none := vget_vof _ h

theorem recipients_ne_nil {s : State} {c : RouteConfig} {hosts : List HostId} {esc : Bool} (h : Recipients s c hosts esc) :
    hosts ≠ [] := by
  rcases h with ⟨-, hne, -⟩ | ⟨-, f, -, -, rfl, -⟩
  · exact hne
  · exact List.cons_ne_nil _ _

theorem madeRecord_unfinished {s : State} {c : RouteConfig} {hosts : List HostId} {esc : Bool} (n : SourceId) (k : Particulars)
    (delayed : Bool) (repeats : Nat) (hr : Recipients s c hosts esc) :
    (madeRecord s n k delayed repeats hosts esc).finished = false := by
  obtain ⟨h, hh⟩ := List.exists_mem_of_ne_nil _ (recipients_ne_nil hr)
  exact finished_eq_false_iff.mpr
    ⟨h, _, (copy_madeRecord s n k delayed repeats hosts esc h).trans (if_pos hh), madeCopyState_not_terminal _ _⟩

theorem created_record? {s t : State} {i : SlotId} {r : Record} {hosts : List HostId} (hc : Created s t i r hosts)
    (j : SlotId) : t.record? j = if j = i then some r else s.record? j := by
  split
  · next e => subst e; exact congrArg Slot.record hc.slot
  · next e => exact congrArg Slot.record (hc.otherSlots j e)

/-- A property of single records that notes keep and that every made record has is kept wherever records are only noted and made. -/
theorem Admits.all_records {P : Record → Prop} {s t : State} (h : Admits s t) (hnote : ∀ r r', Noted r r' → P r → P r')
    (hmake : ∀ (u : State) n k delayed repeats hosts esc c, Recipients u c hosts esc →
      P (madeRecord u n k delayed repeats hosts esc))
    (hs : ∀ i r, s.record? i = some r → P r) : ∀ i r, t.record? i = some r → P r := by
  induction h with
  | refl => exact hs
  | outcome n o _ ih => exact ih
  | wait l _ ih => exact ih
  | note j f hf _ ih =>
    intro i r hr
    rw [record?_modifyRecord] at hr
    split at hr
    · obtain ⟨r0, hr0, rfl⟩ := Option.map_eq_some_iff.mp hr
      exact hnote r0 _ (hf r0) (ih _ _ hr0)
    · exact ih _ _ hr
  | make n j k delayed repeats hosts esc hk hrec hi hc _ ih =>
    intro i r hr
    rw [created_record? hc] at hr
    split at hr
    · cases hr; exact hmake _ _ _ _ _ _ _ _ hrec
    · exact ih _ _ hr

theorem Admits.unfinished {s t : State} (h : Admits s t) (hs : Unfinished s) : Unfinished t :=
  (h.all_records (P := fun r => r.finished = false)
    (fun r r' hn hr => (finished_congr fun k => by rw [hn.copy]).trans hr)
    (fun _ n k delayed repeats _ _ _ hrec => madeRecord_unfinished n k delayed repeats hrec) hs)

/-- The judgement ends the one record that may have had no non-terminal copy. -/
theorem judge_unfinished {s : State} {i : SlotId} (h : UnfinishedBut i s) : Unfinished (s.judge i) := by
  rcases judge_cases s i with ⟨he, hi⟩ | ⟨r, -, -, ha⟩
  · rw [he]
    exact h.all hi
  · refine ha.unfinished ((h.onlySlot (closeRecord_onlySlot s i r)).all fun r' hr' => ?_)
    rw [record?_closeRecord_same] at hr'
    cases hr'

/-- A write of one record that then has a non-terminal copy. -/
theorem unfinished_of_onlySlot {s t : State} {i : SlotId} (h : Unfinished s) (hst : OnlySlot i s t)
    (hi : ∀ r, t.record? i = some r → r.finished = false) : Unfinished t :=
  ((UnfinishedBut.of_unfinished h i).onlySlot hst).all hi

theorem newCopy_not_terminal (s : State) (r : Record) (h : HostId) (esc : Bool) :
    (s.newCopy r h esc).state.terminal = false := by
  unfold State.newCopy copyStateAt
  cases (s.host h).state <;> simp [CopyState.terminal] <;> cases r.deepWake <;> rfl

theorem escalate_cases (s : State) (i : SlotId) (trigger : HostId) :
    s.escalate i trigger = s
    ∨ ∃ r f, s.record? i = some r ∧ Escalates s r f
        ∧ s.escalate i trigger = ((s.setRecord i (s.escalatedRecord r f trigger)).enqueue f i).wakeFor f i := by
  unfold State.escalate
  split
  · exact .inl rfl
  · next r hr =>
    split
    · exact .inl rfl
    · next f hf =>
      split
      · next hm => exact .inr ⟨r, f, hr, (mayEscalate_iff hf).mp hm, rfl⟩
      · exact .inl rfl

theorem record?_of_store {s t : State} (h : t.store = s.store) (i : SlotId) : t.record? i = s.record? i := by
  unfold State.record? State.slot
  rw [h]

theorem Unfinished.of_store {s t : State} (hs : Unfinished s) (h : t.store = s.store) : Unfinished t :=
  fun i r hr => hs i r (by rw [← record?_of_store h]; exact hr)

theorem escalate_unfinished {s : State} (h : Unfinished s) (i : SlotId) (trigger : HostId) :
    Unfinished (s.escalate i trigger) := by
  rcases escalate_cases s i trigger with he | ⟨r, f, hr, hf, he⟩
  · rw [he]; exact h
  · refine unfinished_of_onlySlot h (escalate_onlySlot s i trigger) fun r' hr' => ?_
    rw [he, record?_of_store (wakeFor_store _ _ _)] at hr'
    have hr'' : (s.setRecord i (s.escalatedRecord r f trigger)).record? i = some r' := hr'
    rw [record?_setRecord_same] at hr''
    cases hr''
    exact finished_eq_false_iff.mpr ⟨f, _, copy_setCopy_same r f _, newCopy_not_terminal s r f true⟩

/-- Writes of every record that leave each copy terminal or not as it was. -/
theorem unfinished_of_map {s t : State} {f : Record → Record} (h : Unfinished s)
    (ht : ∀ i, t.record? i = (s.record? i).map f) (hf : ∀ r, r.finished = false → (f r).finished = false) :
    Unfinished t := by
  refine fun i r hr => ?_
  rw [ht] at hr
  obtain ⟨r0, hr0, rfl⟩ := Option.map_eq_some_iff.mp hr
  exact hf r0 (h i r0 hr0)

theorem modifyCopy_unfinished {r : Record} {h : HostId} {f : Copy → Copy}
    (hf : ∀ c, c.state.terminal = false → (f c).state.terminal = false) (hr : r.finished = false) :
    (r.modifyCopy h f).finished = false := by
  obtain ⟨k, c, hc, ht⟩ := finished_eq_false_iff.mp hr
  refine finished_eq_false_iff.mpr ?_
  by_cases hk : k = h
  · subst hk
    exact ⟨k, f c, by rw [copy_modifyCopy, if_pos rfl, hc]; rfl, hf c ht⟩
  · exact ⟨k, c, by rw [copy_modifyCopy, if_neg hk]; exact hc, ht⟩

theorem park_not_terminal (c : Copy) (h : c.state.terminal = false) : c.park.state.terminal = false := by
  unfold Copy.park
  split
  · rfl
  · exact h

theorem unpark_not_terminal (c : Copy) (h : c.state.terminal = false) : c.unpark.state.terminal = false := by
  unfold Copy.unpark
  split
  · rfl
  · exact h

theorem mapCopies_unfinished {s : State} (hs : Unfinished s) (h : HostId) {f : Copy → Copy}
    (hf : ∀ c, c.state.terminal = false → (f c).state.terminal = false) : Unfinished (s.mapCopies h f) :=
  unfinished_of_map hs (record?_mapCopies s h f) fun _ => modifyCopy_unfinished hf

theorem returnToRun_unfinished {s : State} (hs : Unfinished s) (h : HostId) : Unfinished (s.returnToRun h) := by
  unfold State.returnToRun
  split
  · exact mapCopies_unfinished hs h unpark_not_terminal
  · exact mapCopies_unfinished hs h unpark_not_terminal
  · exact hs

theorem close_copy (r : Record) (h : HostId) : r.close.copy h = r.copy h := by
  unfold Record.close
  split <;> rfl

theorem voidFor_copies (r : Record) (h : HostId) : (r.voidFor h).copies = r.copies := by
  unfold Record.voidFor
  split
  · split <;> rfl
  · rfl

theorem voidFor_copy (r : Record) (h k : HostId) : (r.voidFor h).copy k = r.copy k := by
  unfold Record.copy
  rw [voidFor_copies]

theorem modifyRecord_unfinished {s : State} (hs : Unfinished s) (i : SlotId) {f : Record → Record}
    (hf : ∀ r, r.finished = false → (f r).finished = false) : Unfinished (s.modifyRecord i f) := by
  refine unfinished_of_onlySlot hs (modifyRecord_onlySlot s i f) fun r hr => ?_
  rw [record?_modifyRecord, if_pos rfl] at hr
  obtain ⟨r0, hr0, rfl⟩ := Option.map_eq_some_iff.mp hr
  exact hf r0 (hs i r0 hr0)

/-- A fold of steps that each keep a property keeps it. -/
theorem foldl_keeps {α : Type} {P : State → Prop} {f : State → α → State} (hf : ∀ s x, P s → P (f s x)) (l : List α) {s : State}
    (hs : P s) : P (l.foldl f s) := by
  induction l generalizing s with
  | nil => exact hs
  | cons x xs ih => exact ih (hf s x hs)

theorem cleanupCopy_unfinished {s : State} (hs : Unfinished s) (h : HostId) (i : SlotId) :
    Unfinished (s.cleanupCopy h i) := by
  have hbut := UnfinishedBut.of_unfinished hs i
  unfold State.cleanupCopy
  split
  · exact hs
  · split_ifs
    · exact hs
    · exact judge_unfinished (hbut.onlySlot (setCopy_onlySlot s i h _))
    · exact judge_unfinished (hbut.onlySlot ((setCopy_onlySlot s i h _).trans (escalate_onlySlot _ i h)))

theorem voidReservations_unfinished {s : State} (hs : Unfinished s) (h : HostId) : Unfinished (s.voidReservations h) := by
  have hvoid : Unfinished (allSlots.foldl (fun t i => t.modifyRecord i (fun r => r.voidFor h)) s) :=
    foldl_keeps (P := Unfinished) (fun _ i ht => modifyRecord_unfinished ht i fun r hr =>
      (finished_congr fun k => by rw [voidFor_copy]).trans hr) _ hs
  unfold State.voidReservations
  generalize allSlots.foldl _ s = t at hvoid
  exact hvoid

theorem cleanup_unfinished {s : State} (hs : Unfinished s) (h : HostId) : Unfinished (s.cleanup h) := by
  have hcopies : Unfinished (allSlots.foldl (fun t i => t.cleanupCopy h i) (s.voidReservations h)) :=
    foldl_keeps (P := Unfinished) (fun _ i ht => cleanupCopy_unfinished ht h i) _ (voidReservations_unfinished hs h)
  unfold State.cleanup
  generalize allSlots.foldl _ (s.voidReservations h) = t at hcopies
  exact hcopies

theorem loseHost_unfinished {s : State} (hs : Unfinished s) (h : HostId) : Unfinished (s.loseHost h) := by
  unfold State.loseHost
  refine (admission_admits _ _).unfinished ?_
  exact cleanup_unfinished (hs.of_store (setHost_store s h _)) h

theorem detachHost_unfinished {s : State} (hs : Unfinished s) (h : HostId) : Unfinished (s.detachHost h) := by
  unfold State.detachHost
  exact cleanup_unfinished (hs.of_store (setHostState_store s h _)) h

theorem openSession_store (s : State) (h : HostId) (grace wake : Nat) : (s.openSession h grace wake).store = s.store := rfl

theorem freshAttach_unfinished {s : State} (hs : Unfinished s) (h : HostId) (grace wake : Nat) :
    Unfinished (s.freshAttach h grace wake) :=
  (detachHost_unfinished hs h).of_store (openSession_store _ h grace wake)

theorem purgeRecord_unfinished {s : State} (hs : Unfinished s) (i : SlotId) : Unfinished (s.purgeRecord i) :=
  judge_unfinished ((UnfinishedBut.of_unfinished hs i).onlySlot
    ((markPurged_onlySlot s i).trans (withdraw_onlySlot _ i)))

/-- Up to the closing of the record, FLUSHALL's end of a record touches its slot only. -/
theorem flushRecord_cases (s : State) (i : SlotId) :
    ∃ t, OnlySlot i s t ∧ t = allHosts.foldl (fun u h => u.endStale i h) ((s.markPurged i).withdraw i)
      ∧ ((s.flushRecord i = t ∧ ∀ r, t.record? i = some r → r.finished = false)
        ∨ ∃ r, t.record? i = some r ∧ r.finished = true ∧ s.flushRecord i = t.closeRecord i r) := by
  refine ⟨_, ((markPurged_onlySlot s i).trans (withdraw_onlySlot _ i)).trans
    (OnlySlot.foldl _ (fun u h => endStale_onlySlot u i h) allHosts _), rfl, ?_⟩
  unfold State.flushRecord
  dsimp only
  generalize allHosts.foldl (fun u h => u.endStale i h) ((s.markPurged i).withdraw i) = t
  cases hr : t.record? i with
  | none => exact .inl ⟨rfl, by simp⟩
  | some r =>
    cases hf : r.finished with
    | false => exact .inl ⟨by simp [hf], by simpa using hf⟩
    | true => exact .inr ⟨r, rfl, hf, by simp [hf]⟩

theorem flushRecord_unfinished {s : State} (hs : Unfinished s) (i : SlotId) : Unfinished (s.flushRecord i) := by
  obtain ⟨t, hst, -, ⟨he, hi⟩ | ⟨r, -, -, he⟩⟩ := flushRecord_cases s i
  · rw [he]
    exact unfinished_of_onlySlot hs hst hi
  · rw [he]
    refine unfinished_of_onlySlot hs (hst.trans (closeRecord_onlySlot t i r)) fun r' hr' => ?_
    rw [record?_closeRecord_same] at hr'
    cases hr'

theorem flushRearm_admits (s : State) (n : LineId) : Admits s (s.flushRearm n) := by
  unfold State.flushRearm
  split
  · exact admission_admits s _
  · exact .refl

theorem flushAll_unfinished {s : State} (hs : Unfinished s) : Unfinished s.flushAll := by
  have hrecords : Unfinished (s.liveSlots.foldl State.flushRecord { s with waitList := [] }) :=
    foldl_keeps (P := Unfinished) (fun _ i ht => flushRecord_unfinished ht i) _ hs
  have hstores : Unfinished s.flushStores :=
    foldl_keeps (P := Unfinished) (f := State.clearDelivery) (fun _ _ ht => ht) _ hrecords
  exact foldl_keeps (P := Unfinished) (fun t n ht => (flushRearm_admits t n).unfinished ht) _ hstores

theorem createPost_cases (s : State) {p : HostId} {n : SourceId} {i : SlotId} (payload : BitVec 16) (receipt : Bool)
    {hosts : List HostId} {esc : Bool} (hr : Recipients s (s.route n).config hosts esc) :
    ∃ u, Created s u i
        (madeRecord s n (.posted payload p (if receipt then .reserved else .none)) false 0 hosts esc) hosts
      ∧ s.createPost p n i payload receipt hosts esc = if receipt then u.reserve p else u :=
  ⟨_, createRecord_created s i n _ false 0 hosts esc hr.nodup hr.usable, by unfold State.createPost; cases receipt <;> rfl⟩

theorem created_unfinished {s t : State} {i : SlotId} {r : Record} {hosts : List HostId} (hc : Created s t i r hosts)
    (hr : r.finished = false) (hs : Unfinished s) : Unfinished t :=
  unfinished_of_onlySlot hs hc.otherSlots fun r' hr' => by
    rw [created_record? hc, if_pos rfl] at hr'
    cases hr'
    exact hr

theorem unfinished_rule {s t : State} {p : HostId} (hs : Unfinished s) (h : RuleEffect s p t) :
    Unfinished t := by
  cases h with
  | nothing => exact hs
  | openSession => exact hs
  | reopenSession => exact (admission_admits _ _).unfinished hs
  | freshSession grace wake => exact freshAttach_unfinished hs p grace wake
  | detach => exact detachHost_unfinished hs p
  | sleep => exact mapCopies_unfinished (s := s.setHostState p .deep) hs p park_not_terminal
  | level => exact hs
  | take i =>
    unfold State.takeHead
    refine modifyRecord_unfinished (hs.of_store (pushStack_store s p i)) i fun r hr => ?_
    exact (finished_congr fun k => by rw [close_copy]).trans
      (modifyCopy_unfinished (h := p) (f := Copy.take) (fun _ _ => rfl) hr)
  | ackTaken i c =>
    exact judge_unfinished ((UnfinishedBut.of_unfinished hs i).onlySlot
      ((setCopy_onlySlot s i p _).trans (satisfy_onlySlot (State.popStack _ p) i)))
  | ackOverdue i c =>
    exact judge_unfinished ((UnfinishedBut.of_unfinished hs i).onlySlot
      ((setCopy_onlySlot s i p _).trans (escalate_onlySlot _ i p)))
  | ackStale i c =>
    exact judge_unfinished ((UnfinishedBut.of_unfinished hs i).onlySlot (setCopy_onlySlot s i p _))
  | noTarget => exact hs
  | post n i payload receipt hosts esc _ _ _ _ hr _ =>
    obtain ⟨u, hc, he⟩ := createPost_cases s (p := p) (i := i) payload receipt hr
    rw [he]
    have hu := created_unfinished hc (madeRecord_unfinished _ _ _ _ hr) hs
    split
    · exact hu
    · exact hu
  | receipt => exact hs
  | routeWrite n c => exact (writeRoute_admits s n c).unfinished hs
  | purge n => exact foldl_keeps (P := Unfinished) (fun _ i ht => purgeRecord_unfinished ht i) _ hs
  | lineWrite => exact hs
  | flushAll => exact flushAll_unfinished hs
  | restore => exact hs

theorem deadlineExpiry_unfinished {s : State} (hs : Unfinished s) (i : SlotId) (h : HostId) :
    Unfinished (s.deadlineExpiry i h) := by
  unfold State.deadlineExpiry
  split
  · exact hs
  · next c hc =>
    split_ifs
    · exact judge_unfinished ((UnfinishedBut.of_unfinished hs i).onlySlot
        ((setCopy_onlySlot s i h _).trans (escalate_onlySlot (State.dequeue _ h i) i h)))
    · refine escalate_unfinished (unfinished_of_onlySlot hs (setCopy_onlySlot s i h _) fun r hr => ?_) i h
      rw [record?_setCopy, if_pos rfl] at hr
      obtain ⟨r0, -, rfl⟩ := Option.map_eq_some_iff.mp hr
      exact finished_eq_false_iff.mpr ⟨h, _, copy_setCopy_same r0 h _, rfl⟩
    · exact hs

theorem tick_finished (r : Record) : r.tick.finished = r.finished :=
  finished_congr fun k => by
    rw [copy_tick]
    cases r.copy k with
    | none => rfl
    | some c => exact congrArg some (tick_state c)

theorem lossDetected_unfinished {s : State} (hs : Unfinished s) : Unfinished s.lossDetected := by
  unfold State.lossDetected
  split_ifs
  · exact (admission_admits _ _).unfinished hs
  · exact hs
  · exact hs

theorem unfinished_keptByEvents : KeptByEvents Unfinished where
  reset _ pins _ := by
    refine fun i r hr => ?_
    have hnone : (State.resetWith pins.straps).record? i = none := congrArg Slot.record (vget_replicate _ i)
    exact absurd (hr.symm.trans hnone) (by simp)
  queue _ _ hs := hs
  port _ _ _ hs := hs
  drive _ hs := hs
  awake s p hs := returnToRun_unfinished hs p
  rule _ _ _ _ hs h := unfinished_rule hs h
  millisecond s hs := unfinished_of_map hs (record?_millisecond s) fun r hr => (tick_finished r).trans hr
  sample _ _ levels order hs :=
    sampleAll_keeps levels order (fun u n b hu _ => (sampleLine_admits u n b).unfinished hu) hs
  deadline _ i h hs := deadlineExpiry_unfinished hs i h
  loss _ h hs := loseHost_unfinished hs h
  refLost _ hs := lossDetected_unfinished hs
  risingEdge _ hs := hs
  stable _ hs := hs
  cycle _ hs := hs

/-- Settles O58: every operation that may end a record's last non-terminal copy judges the retirement of that record, and every record
made, and every escalation copy, starts with a copy that is not terminal. -/
theorem liveRecordsStayUnfinished : Obligations.LiveRecordsStayUnfinished :=
  fun _ _ hs h =>
  unfinished_iff.mpr (unfinished_keptByEvents.step (unfinished_iff.mp hs) h)

end Sys2Proof.Proofs.RecordLife
end

section
/-! PROOFS. Queues and stacks (R62, R87, R92): one host's part of the invariant, how each kind of change at one slot carries it over, and the
operations by these changes. Within a cleanup and a FLUSHALL the invariant is broken for a host until its queue and stack are emptied. -/

namespace Sys2Proof.Proofs.QueueOrder

open Sys2Proof Sys2Proof.Machine Sys2Proof.Proofs.StepEffects Sys2Proof.Proofs.Configuration Sys2Proof.Proofs.RecordLife

/-! ## One host's part of the invariant -/

/-- Host `h`'s queue and stack are in order and agree with its copies. -/
def HostAgrees (s : State) (h : HostId) : Prop :=
  (∀ i, i ∈ (s.deliv h).queue ↔ s.offeredAt h i = true) ∧ (s.deliv h).queue.Nodup
    ∧ (s.deliv h).queue.Pairwise (fun i j => s.priorityOf j ≤ s.priorityOf i)
    ∧ (∀ i, i ∈ (s.deliv h).stack ↔ s.inServiceAt h i = true)
    ∧ (s.deliv h).stack.Pairwise (fun i j => s.priorityOf j < s.priorityOf i)
    ∧ (s.deliv h).stack.length ≤ 4
    ∧ (s.deliv h).runningLevel = s.levelOf (s.deliv h).stack

theorem deliveryAgrees_iff {s : State} : s.DeliveryAgrees ↔ ∀ h, HostAgrees s h := Iff.rfl

theorem offeredAt_eq (s : State) (h : HostId) (i : SlotId) : s.offeredAt h i = (s.copy? i h).any Copy.offered := by
  unfold State.offeredAt
  cases s.copy? i h <;> rfl

theorem inServiceAt_eq (s : State) (h : HostId) (i : SlotId) : s.inServiceAt h i = (s.copy? i h).any Copy.inService := by
  unfold State.inServiceAt
  cases s.copy? i h <;> rfl

/-- Host `h`'s copy in slot `i` is neither offered nor in service: there is none, or it is terminal. -/
def NoPart (s : State) (h : HostId) (i : SlotId) : Prop := s.offeredAt h i = false ∧ s.inServiceAt h i = false

theorem not_offered_and_inService (c : Copy) (h : c.offered = true) : c.inService = false := by
  unfold Copy.offered at h
  unfold Copy.inService
  cases hs : c.state <;> simp_all

theorem terminal_iff (c : Copy) : c.state.terminal = true ↔ c.offered = false ∧ c.inService = false := by
  unfold Copy.offered Copy.inService
  cases c.state <;> simp [CopyState.terminal]

theorem noPart_iff {s : State} {h : HostId} {i : SlotId} :
    NoPart s h i ↔ ∀ c, s.copy? i h = some c → c.state.terminal = true := by
  unfold NoPart
  rw [offeredAt_eq, inServiceAt_eq]
  cases s.copy? i h with
  | none => simp
  | some c => simpa using (terminal_iff c).symm

theorem offered_not_inService {s : State} {h : HostId} {i : SlotId} (ho : s.offeredAt h i = true) : s.inServiceAt h i = false := by
  rw [offeredAt_eq] at ho
  rw [inServiceAt_eq]
  cases hc : s.copy? i h with
  | none => rfl
  | some c => rw [hc] at ho; exact not_offered_and_inService c ho

/-- Slot `i` looks the same to host `h`'s queue and stack in `t` as in `s`. -/
def Alike (h : HostId) (i : SlotId) (s t : State) : Prop :=
  t.offeredAt h i = s.offeredAt h i ∧ t.inServiceAt h i = s.inServiceAt h i
    ∧ (s.offeredAt h i = true ∨ s.inServiceAt h i = true → t.priorityOf i = s.priorityOf i)

theorem Alike.of_record {h : HostId} {i : SlotId} {s t : State} (hr : t.record? i = s.record? i) : Alike h i s t := by
  have hc := copy?_congr hr h
  refine ⟨by rw [offeredAt_eq, offeredAt_eq, hc], by rw [inServiceAt_eq, inServiceAt_eq, hc], fun _ => ?_⟩
  unfold State.priorityOf
  rw [hr]

theorem Alike.of_store {s t : State} (hst : t.store = s.store) (h : HostId) (i : SlotId) : Alike h i s t :=
  .of_record (record?_of_store hst i)

/-- A slot in which host `h` has no part before and after. -/
theorem Alike.of_noPart {h : HostId} {i : SlotId} {s t : State} (hs : NoPart s h i) (ht : NoPart t h i) : Alike h i s t :=
  ⟨ht.1.trans hs.1.symm, ht.2.trans hs.2.symm, fun hor => by simp [hs.1, hs.2] at hor⟩

theorem priorityOf_of_record {s : State} {i : SlotId} {r : Record} (hr : s.record? i = some r) : s.priorityOf i = r.priority :=
  OfferQueues.priorityOf_of_record hr

/-- A live slot whose record keeps its priority and shows host `h` a copy of the same standing. -/
theorem Alike.of_live {h : HostId} {i : SlotId} {s t : State} {r r' : Record} (hr : s.record? i = some r)
    (hr' : t.record? i = some r') (hp : r'.priority = r.priority)
    (ho : (r'.copy h).any Copy.offered = (r.copy h).any Copy.offered)
    (hv : (r'.copy h).any Copy.inService = (r.copy h).any Copy.inService) : Alike h i s t := by
  refine ⟨?_, ?_, fun _ => by rw [priorityOf_of_record hr, priorityOf_of_record hr', hp]⟩
  · rw [offeredAt_eq, offeredAt_eq, copy?_of_record hr, copy?_of_record hr', ho]
  · rw [inServiceAt_eq, inServiceAt_eq, copy?_of_record hr, copy?_of_record hr', hv]

/-- Writes of every record that keep priorities and the standing of host `h`'s copies. -/
theorem Alike.of_map {h : HostId} {i : SlotId} {s t : State} {f : Record → Record} (ht : t.record? i = (s.record? i).map f)
    (hp : ∀ r, (f r).priority = r.priority) (ho : ∀ r, ((f r).copy h).any Copy.offered = (r.copy h).any Copy.offered)
    (hv : ∀ r, ((f r).copy h).any Copy.inService = (r.copy h).any Copy.inService) : Alike h i s t := by
  cases hr : s.record? i with
  | none => exact .of_record (by rw [ht, hr]; rfl)
  | some r => exact .of_live hr (by rw [ht, hr]; rfl) (hp r) (ho r) (hv r)

/-! ## Changes at one slot -/

/-- Queue, stack and running level are the same. -/
def SameOrder (d e : Delivery) : Prop := d.queue = e.queue ∧ d.stack = e.stack ∧ d.runningLevel = e.runningLevel

theorem SameOrder.of_eq {d e : Delivery} (h : d = e) : SameOrder d e := h ▸ ⟨rfl, rfl, rfl⟩

section
variable {s t : State} {h : HostId} {i : SlotId}

theorem levelOf_congr {l : List SlotId} (hp : ∀ j ∈ l, t.priorityOf j = s.priorityOf j) : t.levelOf l = s.levelOf l := by
  cases l with
  | nil => rfl
  | cons j js => exact hp j List.mem_cons_self

/-- Nothing that host `h`'s queue and stack speak of changes. -/
theorem HostAgrees.keep (hs : HostAgrees s h) (hd : SameOrder (t.deliv h) (s.deliv h)) (hall : ∀ j, Alike h j s t) :
    HostAgrees t h := by
  obtain ⟨hq, hnd, hqp, hk, hkp, hlen, hlev⟩ := hs
  obtain ⟨dq, dk, dl⟩ := hd
  have hpq : ∀ j ∈ (s.deliv h).queue, t.priorityOf j = s.priorityOf j := fun j hj => (hall j).2.2 (.inl ((hq j).mp hj))
  have hpk : ∀ j ∈ (s.deliv h).stack, t.priorityOf j = s.priorityOf j := fun j hj => (hall j).2.2 (.inr ((hk j).mp hj))
  refine ⟨fun j => by rw [dq, hq, (hall j).1], by rw [dq]; exact hnd, ?_, fun j => by rw [dk, hk, (hall j).2.1], ?_,
    by rw [dk]; exact hlen, ?_⟩
  · rw [dq]
    exact hqp.imp_of_mem fun ha hb hle => by rw [hpq _ ha, hpq _ hb]; exact hle
  · rw [dk]
    exact hkp.imp_of_mem fun ha hb hlt => by rw [hpk _ ha, hpk _ hb]; exact hlt
  · rw [dk, dl, hlev, levelOf_congr hpk]

/-- A copy put into its queue by priority is offered from then on (R87). -/
theorem HostAgrees.offer (hs : HostAgrees s h) {q : List SlotId} (hd : t.deliv h = { s.deliv h with queue := q })
    (hins : Inserted t.priorityOf i (s.deliv h).queue q) (hall : ∀ j, j ≠ i → Alike h j s t)
    (hbefore : NoPart s h i) (hafter : t.offeredAt h i = true) : HostAgrees t h := by
  obtain ⟨hq, hnd, hqp, hk, hkp, hlen, hlev⟩ := hs
  have hiq : i ∉ (s.deliv h).queue := fun hm => by simpa [hbefore.1] using (hq i).mp hm
  have hik : i ∉ (s.deliv h).stack := fun hm => by simpa [hbefore.2] using (hk i).mp hm
  have hpq : ∀ j ∈ (s.deliv h).queue, t.priorityOf j = s.priorityOf j := fun j hj =>
    (hall j (fun e => hiq (e ▸ hj))).2.2 (.inl ((hq j).mp hj))
  have hpk : ∀ j ∈ (s.deliv h).stack, t.priorityOf j = s.priorityOf j := fun j hj =>
    (hall j (fun e => hik (e ▸ hj))).2.2 (.inr ((hk j).mp hj))
  obtain ⟨ahead, behind, hold, hnew, hbehind, hahead⟩ := hins
  have hsorted : (ahead ++ behind).Pairwise (fun a b => t.priorityOf b ≤ t.priorityOf a) := by
    rw [← hold]
    exact hqp.imp_of_mem fun ha hb hle => by rw [hpq _ ha, hpq _ hb]; exact hle
  obtain ⟨hpa, hpb, hpab⟩ := List.pairwise_append.mp hsorted
  have hge : ∀ a ∈ ahead, t.priorityOf i ≤ t.priorityOf a := by
    intro a ha
    obtain ⟨l, x, rfl⟩ : ∃ l x, ahead = l ++ [x] :=
      ⟨ahead.dropLast, ahead.getLast (List.ne_nil_of_mem ha), (List.dropLast_append_getLast _).symm⟩
    have hx : t.priorityOf i ≤ t.priorityOf x := hahead x (by simp)
    rcases List.mem_append.mp ha with hl | hl
    · exact hx.trans ((List.pairwise_append.mp hpa).2.2 a hl x (by simp))
    · simpa [List.mem_singleton.mp hl] using hx
  have hmem : ∀ j, j ∈ q ↔ j = i ∨ j ∈ (s.deliv h).queue := fun j => by
    rw [hold, hnew]
    simp only [List.mem_append, List.mem_cons]
    tauto
  refine ⟨fun j => ?_, ?_, ?_, fun j => ?_, ?_, by rw [hd]; exact hlen, ?_⟩
  · rw [hd, hmem]
    by_cases hj : j = i
    · subst hj; simp [hafter]
    · rw [(hall j hj).1, hq]
      simp [hj]
  · rw [hd, hnew]
    rw [hold] at hnd hiq
    simp only [List.nodup_append, List.nodup_cons, List.mem_append, not_or, List.mem_cons] at hnd hiq ⊢
    obtain ⟨hna, hnb, hdis⟩ := hnd
    refine ⟨hna, ⟨hiq.2, hnb⟩, fun a ha b hb => ?_⟩
    rcases hb with rfl | hb
    · exact fun e => hiq.1 (e ▸ ha)
    · exact hdis a ha b hb
  · rw [hd, hnew]
    refine List.pairwise_append.mpr ⟨hpa, List.pairwise_cons.mpr ⟨fun b hb => le_of_lt (hbehind b hb), hpb⟩, ?_⟩
    intro a ha b hb
    rcases List.mem_cons.mp hb with rfl | hb
    · exact hge a ha
    · exact hpab a ha b hb
  · rw [hd]
    by_cases hj : j = i
    · subst hj
      have := offered_not_inService hafter
      simp [this, hik]
    · rw [(hall j hj).2.1]
      exact hk j
  · rw [hd]
    exact hkp.imp_of_mem fun ha hb hlt => by rw [hpk _ ha, hpk _ hb]; exact hlt
  · rw [hd]
    exact hlev.trans (levelOf_congr hpk).symm

/-- An offered copy that ends leaves its queue (R88). -/
theorem HostAgrees.leave (hs : HostAgrees s h)
    (hd : SameOrder (t.deliv h) { s.deliv h with queue := (s.deliv h).queue.filter (fun x => x != i) })
    (hall : ∀ j, j ≠ i → Alike h j s t) (hbefore : s.inServiceAt h i = false) (hafter : NoPart t h i) : HostAgrees t h := by
  obtain ⟨hq, hnd, hqp, hk, hkp, hlen, hlev⟩ := hs
  obtain ⟨dq, dk, dl⟩ := hd
  have hik : i ∉ (s.deliv h).stack := fun hm => by simpa [hbefore] using (hk i).mp hm
  have hpq : ∀ j ∈ (s.deliv h).queue.filter (fun x => x != i), t.priorityOf j = s.priorityOf j := fun j hj => by
    simp only [List.mem_filter, bne_iff_ne] at hj
    exact (hall j hj.2).2.2 (.inl ((hq j).mp hj.1))
  have hpk : ∀ j ∈ (s.deliv h).stack, t.priorityOf j = s.priorityOf j := fun j hj =>
    (hall j (fun e => hik (e ▸ hj))).2.2 (.inr ((hk j).mp hj))
  refine ⟨fun j => ?_, by rw [dq]; exact hnd.filter _, ?_, fun j => ?_, ?_, by rw [dk]; exact hlen, ?_⟩
  · rw [dq]
    by_cases hj : j = i
    · subst hj; simp [hafter.1]
    · rw [(hall j hj).1, ← hq]
      simp [hj]
  · rw [dq]
    exact (hqp.filter _).imp_of_mem fun ha hb hle => by rw [hpq _ ha, hpq _ hb]; exact hle
  · rw [dk]
    by_cases hj : j = i
    · subst hj; simp [hafter.2, hik]
    · rw [(hall j hj).2.1]
      exact hk j
  · rw [dk]
    exact hkp.imp_of_mem fun ha hb hlt => by rw [hpk _ ha, hpk _ hb]; exact hlt
  · rw [dk, dl]
    exact hlev.trans (levelOf_congr hpk).symm

/-- The top copy ends and is popped (R70, R71). -/
theorem HostAgrees.pop (hs : HostAgrees s h) {rest : List SlotId} (htop : (s.deliv h).stack = i :: rest)
    (hd : t.deliv h = { s.deliv h with stack := rest, runningLevel := t.levelOf rest })
    (hall : ∀ j, j ≠ i → Alike h j s t) (hafter : NoPart t h i) : HostAgrees t h := by
  obtain ⟨hq, hnd, hqp, hk, hkp, hlen, -⟩ := hs
  have hser : s.inServiceAt h i = true := (hk i).mp (by rw [htop]; exact List.mem_cons_self)
  have hiq : i ∉ (s.deliv h).queue := fun hm => by
    have := offered_not_inService ((hq i).mp hm)
    simp [this] at hser
  rw [htop] at hkp hlen
  obtain ⟨hbelow, hkp⟩ := List.pairwise_cons.mp hkp
  have hirest : i ∉ rest := fun hm => lt_irrefl _ (hbelow i hm)
  have hpq : ∀ j ∈ (s.deliv h).queue, t.priorityOf j = s.priorityOf j := fun j hj =>
    (hall j (fun e => hiq (e ▸ hj))).2.2 (.inl ((hq j).mp hj))
  have hpk : ∀ j ∈ rest, t.priorityOf j = s.priorityOf j := fun j hj =>
    (hall j (fun e => hirest (e ▸ hj))).2.2 (.inr ((hk j).mp (by rw [htop]; exact List.mem_cons_of_mem _ hj)))
  refine ⟨fun j => ?_, by rw [hd]; exact hnd, ?_, fun j => ?_, ?_, ?_, by rw [hd]⟩
  · rw [hd]
    by_cases hj : j = i
    · subst hj; simp [hafter.1, hiq]
    · rw [(hall j hj).1]
      exact hq j
  · rw [hd]
    exact hqp.imp_of_mem fun ha hb hle => by rw [hpq _ ha, hpq _ hb]; exact hle
  · rw [hd]
    by_cases hj : j = i
    · subst hj; simp [hafter.2, hirest]
    · rw [(hall j hj).2.1, ← hk, htop]
      simp [hj]
  · rw [hd]
    exact hkp.imp_of_mem fun ha hb hlt => by rw [hpk _ ha, hpk _ hb]; exact hlt
  · rw [hd]
    exact (Nat.le_succ _).trans hlen

/-- An offered copy above the running level goes from the queue to the top of the stack (R95). -/
theorem HostAgrees.push (hs : HostAgrees s h) {d : Delivery} (hd : t.deliv h = d)
    (hdq : d.queue = (s.deliv h).queue.filter (fun x => x != i)) (hdk : d.stack = i :: (s.deliv h).stack)
    (hdl : d.runningLevel = s.priorityOf i) (hall : ∀ j, j ≠ i → Alike h j s t) (hbefore : s.offeredAt h i = true)
    (hafter : t.inServiceAt h i = true) (hp : t.priorityOf i = s.priorityOf i)
    (habove : (s.deliv h).runningLevel < s.priorityOf i) (hroom : (s.deliv h).stack.length < 4) : HostAgrees t h := by
  obtain ⟨hq, hnd, hqp, hk, hkp, hlen, hlev⟩ := hs
  have hik : i ∉ (s.deliv h).stack := fun hm => by
    have h1 := (hk i).mp hm
    simp [offered_not_inService hbefore] at h1
  have hoff : t.offeredAt h i = false := by
    by_contra hne
    have := offered_not_inService (Bool.eq_true_of_not_eq_false hne)
    simp [this] at hafter
  have hpq : ∀ j ∈ (s.deliv h).queue.filter (fun x => x != i), t.priorityOf j = s.priorityOf j := fun j hj => by
    simp only [List.mem_filter, bne_iff_ne] at hj
    exact (hall j hj.2).2.2 (.inl ((hq j).mp hj.1))
  have hpk : ∀ j ∈ (s.deliv h).stack, t.priorityOf j = s.priorityOf j := fun j hj =>
    (hall j (fun e => hik (e ▸ hj))).2.2 (.inr ((hk j).mp hj))
  have hbelow : ∀ j ∈ (s.deliv h).stack, s.priorityOf j ≤ (s.deliv h).runningLevel := by
    rw [hlev]
    cases hst : (s.deliv h).stack with
    | nil => simp
    | cons a as =>
      rw [hst] at hkp
      intro j hj
      rcases List.mem_cons.mp hj with rfl | hj
      · exact le_refl _
      · exact le_of_lt ((List.pairwise_cons.mp hkp).1 j hj)
  refine ⟨fun j => ?_, by rw [hd, hdq]; exact hnd.filter _, ?_, fun j => ?_, ?_, ?_, ?_⟩
  · rw [hd, hdq]
    by_cases hj : j = i
    · subst hj; simp [hoff]
    · rw [(hall j hj).1, ← hq]
      simp [hj]
  · rw [hd, hdq]
    exact (hqp.filter _).imp_of_mem fun ha hb hle => by rw [hpq _ ha, hpq _ hb]; exact hle
  · rw [hd, hdk]
    by_cases hj : j = i
    · subst hj; simp [hafter]
    · rw [(hall j hj).2.1, ← hk]
      simp [hj]
  · rw [hd, hdk]
    refine List.pairwise_cons.mpr ⟨fun j hj => ?_, hkp.imp_of_mem fun ha hb hlt => by rw [hpk _ ha, hpk _ hb]; exact hlt⟩
    rw [hp, hpk j hj]
    exact lt_of_le_of_lt (hbelow j hj) habove
  · rw [hd, hdk]
    exact hroom
  · rw [hd, hdk, hdl]
    exact hp.symm

/-- A host with an empty queue and stack and no copy offered or in service. -/
theorem HostAgrees.of_empty (hq : (t.deliv h).queue = []) (hk : (t.deliv h).stack = []) (hl : (t.deliv h).runningLevel = 0)
    (hnone : ∀ j, NoPart t h j) : HostAgrees t h := by
  unfold HostAgrees
  rw [hq, hk, hl]
  refine ⟨fun j => by simp [(hnone j).1], List.nodup_nil, List.Pairwise.nil, fun j => by simp [(hnone j).2],
    List.Pairwise.nil, by simp, rfl⟩

end

/-! ## Making and closing records -/

theorem noPart_of_free {s : State} {i : SlotId} (hr : s.record? i = none) (h : HostId) : NoPart s h i :=
  noPart_iff.mpr fun c hc => by rw [copy?_of_free hr] at hc; cases hc

theorem noPart_of_finished {s : State} {i : SlotId} {r : Record} (hr : s.record? i = some r) (hf : r.finished = true)
    (h : HostId) : NoPart s h i :=
  noPart_iff.mpr fun c hc => finished_iff.mp hf h c (by rw [← copy?_of_record hr]; exact hc)

theorem offered_of_madeCopyState (c : Copy) {x : HostState} {deepWake : Bool} (h : c.state = madeCopyState x deepWake) :
    c.offered = true := by
  have hx : c.state = .pending ∨ c.state = .parked := by
    rw [h]
    unfold madeCopyState
    split <;> simp
  unfold Copy.offered
  rcases hx with hx | hx <;> rw [hx]

theorem created_agrees {s t : State} {n : SourceId} {i : SlotId} {k : Particulars} {delayed : Bool} {repeats : Nat}
    {hosts : List HostId} {esc : Bool} (hc : Created s t i (madeRecord s n k delayed repeats hosts esc) hosts)
    (hi : LowestFree s i) {h : HostId} (hs : HostAgrees s h) : HostAgrees t h := by
  have hall : ∀ j, j ≠ i → Alike h j s t := fun j hj => .of_record (by rw [created_record? hc, if_neg hj])
  have hrec : t.record? i = some (madeRecord s n k delayed repeats hosts esc) := by rw [created_record? hc, if_pos rfl]
  by_cases hh : h ∈ hosts
  · obtain ⟨hins, hd⟩ := hc.offered h hh
    refine hs.offer hd hins hall (noPart_of_free hi.1 h) ?_
    rw [offeredAt_eq, copy?_of_record hrec, copy_madeRecord, if_pos hh]
    exact offered_of_madeCopyState _ rfl
  · refine hs.keep (SameOrder.of_eq (hc.otherQueues h hh)) fun j => ?_
    by_cases hj : j = i
    · subst hj
      refine .of_noPart (noPart_of_free hi.1 h) (noPart_iff.mpr fun c hcp => ?_)
      rw [copy?_of_record hrec, copy_madeRecord, if_neg hh] at hcp
      cases hcp
    · exact hall j hj

theorem Noted.alike {s t : State} {i : SlotId} {f : Record → Record} (hf : ∀ r, Noted r (f r))
    (ht : t.record? i = (s.record? i).map f) (h : HostId) : Alike h i s t :=
  .of_map ht (fun r => (hf r).priority) (fun r => by rw [(hf r).copy]) (fun r => by rw [(hf r).copy])

theorem Admits.agrees {s t : State} (ha : Admits s t) {h : HostId} (hs : HostAgrees s h) : HostAgrees t h := by
  induction ha with
  | refl => exact hs
  | outcome n o _ ih => exact ih
  | wait l _ ih => exact ih
  | note i f hf _ ih =>
    refine ih.keep ?_ fun j => ?_
    · exact SameOrder.of_eq (by unfold State.modifyRecord; split <;> rfl)
    · by_cases hj : j = i
      · subst hj; exact Noted.alike hf (by rw [record?_modifyRecord, if_pos rfl]) h
      · exact .of_record (by rw [record?_modifyRecord, if_neg hj])
  | make n i k delayed repeats hosts esc _ _ hi hc _ ih => exact created_agrees hc hi ih

theorem closeRecord_delivery (s : State) (i : SlotId) (r : Record) : (s.closeRecord i r).delivery = s.delivery := by
  rw [closeRecord_eq]
  rfl

theorem deliv_of_delivery {s t : State} (hd : t.delivery = s.delivery) (h : HostId) : t.deliv h = s.deliv h := by
  unfold State.deliv
  rw [hd]

theorem closeRecord_agrees {s : State} {i : SlotId} {r : Record} (hr : s.record? i = some r) (hf : r.finished = true)
    {h : HostId} (hs : HostAgrees s h) : HostAgrees (s.closeRecord i r) h := by
  refine hs.keep (SameOrder.of_eq (deliv_of_delivery (closeRecord_delivery s i r) h)) fun j => ?_
  by_cases hj : j = i
  · subst hj
    exact .of_noPart (noPart_of_finished hr hf h) (noPart_of_free (record?_closeRecord_same s j r) h)
  · exact .of_record ((closeRecord_onlySlot s i r).record? hj)

theorem judge_agrees {s : State} (i : SlotId) {h : HostId} (hs : HostAgrees s h) : HostAgrees (s.judge i) h := by
  rcases judge_cases s i with ⟨he, -⟩ | ⟨r, hr, hf, ha⟩
  · rw [he]; exact hs
  · exact Admits.agrees ha (closeRecord_agrees hr hf hs)

/-! ## One copy written -/

theorem deliv_setCopy (s : State) (i : SlotId) (h k : HostId) (c : Copy) : (s.setCopy i h c).deliv k = s.deliv k := by
  unfold State.setCopy State.modifyRecord
  split <;> rfl

theorem copy?_setCopy_same {s : State} {i : SlotId} {h : HostId} {c : Copy} (hc : s.copy? i h = some c) (d : Copy) :
    (s.setCopy i h d).copy? i h = some d := by
  obtain ⟨r, hr, -⟩ := copy?_eq_some.mp hc
  rw [copy?_of_record (r := r.setCopy h d) (by rw [record?_setCopy, if_pos rfl, hr]; rfl), copy_setCopy_same]

/-- A written copy changes nothing that another host's queue and stack speak of, nor what they say of another slot. -/
theorem setCopy_alike (s : State) (i j : SlotId) (h k : HostId) (d : Copy) (hne : j ≠ i ∨ k ≠ h) :
    Alike k j s (s.setCopy i h d) := by
  by_cases hj : j = i
  · subst hj
    have hk := hne.resolve_left fun h => h rfl
    exact .of_map (f := fun r => r.setCopy h d) (by rw [record?_setCopy, if_pos rfl]) (fun _ => rfl)
      (fun r => by rw [copy_setCopy_other r h k d hk]) (fun r => by rw [copy_setCopy_other r h k d hk])
  · exact .of_record (by rw [record?_setCopy, if_neg hj])

theorem setCopy_agrees_other {s : State} (i : SlotId) {h k : HostId} (d : Copy) (hk : k ≠ h) (hs : HostAgrees s k) :
    HostAgrees (s.setCopy i h d) k :=
  hs.keep (SameOrder.of_eq (deliv_setCopy s i h k d)) fun j => setCopy_alike s i j h k d (.inr hk)

/-- A copy that keeps its standing changes nothing for the queues and stacks. -/
theorem setCopy_agrees {s : State} {i : SlotId} {h k : HostId} {c d : Copy} (hc : s.copy? i h = some c)
    (ho : d.offered = c.offered) (hv : d.inService = c.inService) (hs : HostAgrees s k) : HostAgrees (s.setCopy i h d) k := by
  refine hs.keep (SameOrder.of_eq (deliv_setCopy s i h k d)) fun j => ?_
  by_cases hne : j ≠ i ∨ k ≠ h
  · exact setCopy_alike s i j h k d hne
  · push Not at hne
    obtain ⟨rfl, rfl⟩ := hne
    obtain ⟨r, hr, hrc⟩ := copy?_eq_some.mp hc
    refine .of_live hr (r' := r.setCopy k d) (by rw [record?_setCopy, if_pos rfl, hr]; rfl) rfl ?_ ?_
    · rw [copy_setCopy_same, hrc]; exact ho
    · rw [copy_setCopy_same, hrc]; exact hv

theorem noPart_setCopy {s : State} {i : SlotId} {h : HostId} {c d : Copy} (hc : s.copy? i h = some c)
    (ht : d.state.terminal = true) : NoPart (s.setCopy i h d) h i :=
  noPart_iff.mpr fun e he => by
    rw [copy?_setCopy_same hc] at he
    cases he
    exact ht

/-- An offered copy ended and taken from its queue. -/
theorem endOffered_agrees {s : State} {i : SlotId} {h k : HostId} {c d : Copy} (hc : s.copy? i h = some c)
    (ho : c.offered = true) (ht : d.state.terminal = true) (hs : HostAgrees s k) :
    HostAgrees ((s.setCopy i h d).dequeue h i) k := by
  by_cases hk : k = h
  · subst hk
    refine hs.leave (i := i) (SameOrder.of_eq ?_) (fun j hj => setCopy_alike s i j k k d (.inl hj)) ?_
      (noPart_setCopy (d := d) hc ht)
    · rw [deliv_dequeue, if_pos rfl, deliv_setCopy]
    · rw [inServiceAt_eq, hc]
      exact not_offered_and_inService c ho
  · refine hs.keep (SameOrder.of_eq ?_) fun j => setCopy_alike s i j h k d (.inr hk)
    rw [deliv_dequeue, if_neg hk, deliv_setCopy]

theorem levelOf_setDeliv (s : State) (h : HostId) (d : Delivery) (l : List SlotId) :
    (s.setDeliv h d).levelOf l = s.levelOf l := by
  cases l <;> rfl

/-- The top copy ended and popped. -/
theorem endTop_agrees {s : State} {i : SlotId} {h k : HostId} {c d : Copy} (hc : s.copy? i h = some c)
    (htop : (s.deliv h).stack.head? = some i) (ht : d.state.terminal = true) (hs : HostAgrees s k) :
    HostAgrees ((s.setCopy i h d).popStack h) k := by
  by_cases hk : k = h
  · subst hk
    obtain ⟨rest, hrest⟩ : ∃ rest, (s.deliv k).stack = i :: rest := ⟨_, (List.cons_head?_tail htop).symm⟩
    refine hs.pop hrest ?_ (fun j hj => setCopy_alike s i j k k d (.inl hj)) (noPart_setCopy (d := d) hc ht)
    rw [deliv_popStack, if_pos rfl, deliv_setCopy, hrest, State.popStack, levelOf_setDeliv]
    rfl
  · refine hs.keep (SameOrder.of_eq ?_) fun j => setCopy_alike s i j h k d (.inr hk)
    rw [deliv_popStack, if_neg hk, deliv_setCopy]

/-! ## Withdrawal and escalation -/

theorem withdrawCopy_agrees {s : State} (i : SlotId) (h : HostId) {k : HostId} (hs : HostAgrees s k) :
    HostAgrees (s.withdrawCopy i h) k := by
  unfold State.withdrawCopy
  split
  · exact hs
  · next c hc =>
    split
    · next hx => exact endOffered_agrees hc (by simp [Copy.offered, hx]) rfl hs
    · next hx => exact endOffered_agrees hc (by simp [Copy.offered, hx]) rfl hs
    · next hx => exact setCopy_agrees hc (by simp [Copy.offered, hx, Copy.ended]) (by simp [Copy.inService, hx, Copy.ended]) hs
    · next hx => exact setCopy_agrees hc (by simp [Copy.offered, hx, Copy.ended]) (by simp [Copy.inService, hx, Copy.ended]) hs
    · exact hs

theorem withdraw_agrees {s : State} (i : SlotId) {k : HostId} (hs : HostAgrees s k) : HostAgrees (s.withdraw i) k :=
  foldl_keeps (P := fun t => HostAgrees t k) (fun _ h ht => withdrawCopy_agrees i h ht) _ hs

theorem deliv_modifyRecord (s : State) (i : SlotId) (f : Record → Record) (k : HostId) :
    (s.modifyRecord i f).deliv k = s.deliv k := by
  unfold State.modifyRecord
  split <;> rfl

/-- A record written with its priority and its copies kept. -/
theorem modifyRecord_agrees {s : State} (i : SlotId) {f : Record → Record} (hp : ∀ r, (f r).priority = r.priority)
    (hc : ∀ r, (f r).copies = r.copies) {k : HostId} (hs : HostAgrees s k) : HostAgrees (s.modifyRecord i f) k := by
  refine hs.keep (SameOrder.of_eq (deliv_modifyRecord s i f k)) fun j => ?_
  have hcopy : ∀ r h, (f r).copy h = r.copy h := fun r h => by unfold Record.copy; rw [hc]
  by_cases hj : j = i
  · subst hj
    exact .of_map (by rw [record?_modifyRecord, if_pos rfl]) hp (fun r => by rw [hcopy]) (fun r => by rw [hcopy])
  · exact .of_record (by rw [record?_modifyRecord, if_neg hj])

theorem markPurged_agrees {s : State} (i : SlotId) {k : HostId} (hs : HostAgrees s k) : HostAgrees (s.markPurged i) k :=
  modifyRecord_agrees i (f := fun r => { r with purged := true }) (fun _ => rfl) (fun _ => rfl) hs

theorem wakeFor_delivery (s : State) (h : HostId) (i : SlotId) : (s.wakeFor h i).delivery = s.delivery := by
  unfold State.wakeFor
  split <;> rfl

theorem escalate_agrees {s : State} (i : SlotId) (trigger : HostId) {k : HostId} (hs : HostAgrees s k) :
    HostAgrees (s.escalate i trigger) k := by
  rcases escalate_cases s i trigger with he | ⟨r, f, hr, ⟨-, -, -, hu, hnone, -⟩, he⟩
  · rw [he]; exact hs
  · have hrec : (s.escalate i trigger).record? i = some (s.escalatedRecord r f trigger) := by
      rw [he, record?_of_store (wakeFor_store _ _ _)]
      exact record?_setRecord_same s i _
    have hall : ∀ j, j ≠ i → Alike k j s (s.escalate i trigger) := fun j hj =>
      .of_record ((escalate_onlySlot s i trigger).record? hj)
    have hprio : (s.escalate i trigger).priorityOf = (s.setRecord i (s.escalatedRecord r f trigger)).priorityOf := by
      rw [he]
      funext j
      unfold State.priorityOf
      rw [record?_of_store (wakeFor_store _ _ _)]
      rfl
    have hdeliv : (s.escalate i trigger).deliv k
        = ((s.setRecord i (s.escalatedRecord r f trigger)).enqueue f i).deliv k := by
      rw [he]
      exact deliv_of_delivery (wakeFor_delivery _ _ _) k
    rw [deliv_enqueue] at hdeliv
    by_cases hk : k = f
    · subst hk
      rw [if_pos rfl] at hdeliv
      refine hs.offer hdeliv ?_ hall (noPart_iff.mpr fun c hc => ?_) ?_
      · rw [hprio]
        exact insertByPriority_inserted _ _ _
      · rw [copy?_of_record hr, hnone] at hc
        cases hc
      · have hcopy : (s.escalatedRecord r k trigger).copy k = some (s.newCopy r k true) := copy_setCopy_same r k _
        rw [offeredAt_eq, copy?_of_record hrec, hcopy, newCopy_eq s r k true hu]
        exact offered_of_madeCopyState _ rfl
    · rw [if_neg hk] at hdeliv
      have hcopy : (s.escalatedRecord r f trigger).copy k = r.copy k := copy_setCopy_other r f k _ hk
      refine hs.keep (SameOrder.of_eq hdeliv) fun j => ?_
      by_cases hj : j = i
      · subst hj
        exact .of_live hr hrec rfl (by rw [hcopy]) (by rw [hcopy])
      · exact hall j hj

/-- A copy that a record already holds is not touched by an escalation, nor is its host's queue (R77). -/
theorem deliv_escalate_of_copy {s : State} {i : SlotId} {trigger h : HostId} {c : Copy} (hc : s.copy? i h = some c) :
    (s.escalate i trigger).deliv h = s.deliv h := by
  rcases escalate_cases s i trigger with he | ⟨r, f, hr, ⟨-, -, -, -, hnone, -⟩, he⟩
  · rw [he]
  · have hf : h ≠ f := fun e => by
      rw [copy?_of_record hr, e, hnone] at hc
      cases hc
    rw [he, deliv_of_delivery (wakeFor_delivery _ _ _), deliv_enqueue, if_neg hf]
    rfl

theorem copy?_escalate_of_copy {s : State} {i : SlotId} {trigger h : HostId} {c : Copy} (hc : s.copy? i h = some c) :
    (s.escalate i trigger).copy? i h = some c := by
  rcases escalate_cases s i trigger with he | ⟨r, f, hr, ⟨-, -, -, -, hnone, -⟩, he⟩
  · rw [he]; exact hc
  · have hf : h ≠ f := fun e => by
      rw [copy?_of_record hr, e, hnone] at hc
      cases hc
    have hrec : (s.escalate i trigger).record? i = some (s.escalatedRecord r f trigger) := by
      rw [he, record?_of_store (wakeFor_store _ _ _)]
      exact record?_setRecord_same s i _
    rw [copy?_of_record hrec, ← hc, copy?_of_record hr]
    exact copy_setCopy_other r f h _ hf

/-! ## TAKE and ACK -/

theorem isPending_offered {s : State} {h : HostId} {i : SlotId} (hp : s.isPending h i = true) : s.offeredAt h i = true := by
  unfold State.isPending at hp
  unfold State.offeredAt
  cases hc : s.copy? i h with
  | none => simp [hc] at hp
  | some c =>
    have hx : c.state = .pending := by simpa [hc] using hp
    simp [Copy.offered, hx]

theorem head?_isPending {s : State} {h : HostId} {i : SlotId} (hh : s.head? h = some i) :
    i ∈ (s.deliv h).queue ∧ s.isPending h i = true :=
  ⟨List.mem_of_find?_eq_some hh, List.find?_some hh⟩

theorem close_priority (r : Record) : r.close.priority = r.priority := by
  unfold Record.close
  split <;> rfl

theorem modifyCopy_priority (r : Record) (h : HostId) (f : Copy → Copy) : (r.modifyCopy h f).priority = r.priority := by
  unfold Record.modifyCopy
  split <;> rfl

/-- The record after its copy for `p` is taken (R95, steps 2 and 3). -/
def takenRecord (p : HostId) (r : Record) : Record := (r.modifyCopy p Copy.take).close

theorem takenRecord_copy (p k : HostId) (r : Record) :
    (takenRecord p r).copy k = if k = p then (r.copy p).map Copy.take else r.copy k := by
  unfold takenRecord
  rw [close_copy, copy_modifyCopy]

theorem takenRecord_priority (p : HostId) (r : Record) : (takenRecord p r).priority = r.priority := by
  unfold takenRecord
  rw [close_priority, modifyCopy_priority]

theorem record?_takeHead (s : State) (p : HostId) (i j : SlotId) :
    (s.takeHead p i).record? j = if j = i then (s.record? i).map (takenRecord p) else s.record? j := by
  unfold State.takeHead
  rw [record?_modifyRecord, record?_of_store (pushStack_store s p i), record?_of_store (pushStack_store s p i)]
  rfl

theorem deliv_takeHead (s : State) (p k : HostId) (i : SlotId) :
    (s.takeHead p i).deliv k =
      if k = p then
        { s.deliv p with
          queue := (s.deliv p).queue.filter (fun x => x != i), stack := i :: (s.deliv p).stack
          runningLevel := s.priorityOf i }
      else s.deliv k := by
  unfold State.takeHead State.pushStack
  rw [deliv_modifyRecord, deliv_setDeliv, deliv_dequeue, deliv_dequeue, if_pos rfl]
  split <;> rfl

theorem takeHead_agrees {s : State} {p : HostId} {i : SlotId} (hh : s.head? p = some i) (hg : s.aboveGate p i = true)
    (hroom : (s.deliv p).stack.length < 4) {k : HostId} (hs : HostAgrees s k) : HostAgrees (s.takeHead p i) k := by
  have hpend := (head?_isPending hh).2
  have hall : ∀ j, j ≠ i → Alike k j s (s.takeHead p i) := fun j hj => .of_record (by rw [record?_takeHead, if_neg hj])
  have hrec : (s.takeHead p i).record? i = (s.record? i).map (takenRecord p) := by rw [record?_takeHead, if_pos rfl]
  by_cases hk : k = p
  · subst hk
    obtain ⟨c, hc⟩ : ∃ c, s.copy? i k = some c := by
      unfold State.isPending at hpend
      cases hc : s.copy? i k with
      | none => simp [hc] at hpend
      | some c => exact ⟨c, rfl⟩
    obtain ⟨r, hr, hrc⟩ := copy?_eq_some.mp hc
    rw [hr] at hrec
    have habove : (s.deliv k).runningLevel < s.priorityOf i := by
      unfold State.aboveGate at hg
      simp only [Bool.and_eq_true, decide_eq_true_eq] at hg
      exact hg.2
    refine hs.push (d := _) (deliv_takeHead s k k i) ?_ ?_ ?_ hall (isPending_offered hpend) ?_ ?_ habove hroom
    · rw [if_pos rfl]
    · rw [if_pos rfl]
    · rw [if_pos rfl]
    · rw [inServiceAt_eq, copy?_of_record hrec, takenRecord_copy, if_pos rfl, hrc]
      rfl
    · rw [priorityOf_of_record hr, priorityOf_of_record hrec, takenRecord_priority]
  · refine hs.keep (SameOrder.of_eq (by rw [deliv_takeHead, if_neg hk])) fun j => ?_
    by_cases hj : j = i
    · subst hj
      exact .of_map hrec (takenRecord_priority p) (fun r => by rw [takenRecord_copy, if_neg hk])
        (fun r => by rw [takenRecord_copy, if_neg hk])
    · exact hall j hj

theorem satisfy_agrees {s : State} (i : SlotId) {k : HostId} (hs : HostAgrees s k) : HostAgrees (s.satisfy i) k := by
  unfold State.satisfy
  split
  · exact hs
  · split
    · exact withdraw_agrees i hs
    · exact hs

/-- The stack of an ACK is popped after the escalation; to the queues and stacks it could be popped before. -/
theorem popStack_escalate_agrees {s : State} {i : SlotId} {h k : HostId} {c d : Copy} (hc : s.copy? i h = some c)
    (htop : (s.deliv h).stack.head? = some i) (ht : d.state.terminal = true) (hs : HostAgrees s k) :
    HostAgrees (((s.setCopy i h d).escalate i h).popStack h) k := by
  have hcopy := copy?_setCopy_same hc d
  by_cases hk : k = h
  · subst hk
    obtain ⟨rest, hrest⟩ : ∃ rest, (s.deliv k).stack = i :: rest := ⟨_, (List.cons_head?_tail htop).symm⟩
    have hesc : ((s.setCopy i k d).escalate i k).deliv k = s.deliv k := by
      rw [deliv_escalate_of_copy hcopy, deliv_setCopy]
    refine hs.pop hrest ?_ (fun j hj => .of_record ?_) (noPart_iff.mpr fun e he => ?_)
    · rw [deliv_popStack, if_pos rfl, hesc, hrest, State.popStack, levelOf_setDeliv]
      rfl
    · exact (((setCopy_onlySlot s i k d).trans (escalate_onlySlot _ i k))).record? hj
    · have hkept : ((s.setCopy i k d).escalate i k).copy? i k = some e := he
      rw [copy?_escalate_of_copy hcopy] at hkept
      cases hkept
      exact ht
  · refine (escalate_agrees i h (setCopy_agrees_other i d hk hs)).keep (SameOrder.of_eq ?_) fun j => .of_store rfl k j
    rw [deliv_popStack, if_neg hk]

theorem ackTaken_agrees {s : State} {p : HostId} {i : SlotId} {c : Copy} (hc : s.copy? i p = some c)
    (htop : (s.deliv p).stack.head? = some i) {k : HostId} (hs : HostAgrees s k) : HostAgrees (s.ackTaken p i c) k :=
  satisfy_agrees i (endTop_agrees hc htop rfl hs)

theorem ackOverdue_agrees {s : State} {p : HostId} {i : SlotId} {c : Copy} (hc : s.copy? i p = some c)
    (htop : (s.deliv p).stack.head? = some i) {k : HostId} (hs : HostAgrees s k) : HostAgrees (s.ackOverdue p i c) k :=
  popStack_escalate_agrees hc htop rfl hs

theorem ackStale_agrees {s : State} {p : HostId} {i : SlotId} {c : Copy} (hc : s.copy? i p = some c)
    (htop : (s.deliv p).stack.head? = some i) {k : HostId} (hs : HostAgrees s k) : HostAgrees (s.ackStale p i c) k :=
  endTop_agrees hc htop rfl hs

/-! ## Sleep and ticks -/

/-- A state whose queues, stacks and levels are the same, and whose records are the old ones with each copy's standing kept. -/
theorem agrees_of_map {s t : State} {f : Record → Record} (hd : t.delivery = s.delivery)
    (ht : ∀ i, t.record? i = (s.record? i).map f) (hp : ∀ r, (f r).priority = r.priority) {k : HostId}
    (hcopy : ∀ r, ∃ g : Copy → Copy, (f r).copy k = (r.copy k).map g
      ∧ ∀ c, (g c).offered = c.offered ∧ (g c).inService = c.inService)
    (hs : HostAgrees s k) : HostAgrees t k := by
  have hflags : ∀ r, ((f r).copy k).any Copy.offered = (r.copy k).any Copy.offered
      ∧ ((f r).copy k).any Copy.inService = (r.copy k).any Copy.inService := fun r => by
    obtain ⟨g, hg, hst⟩ := hcopy r
    cases h : r.copy k <;> simp [hg, h, hst]
  exact hs.keep (SameOrder.of_eq (deliv_of_delivery hd k)) fun j =>
    .of_map (ht j) hp (fun r => (hflags r).1) (fun r => (hflags r).2)

theorem standing_of_state {c d : Copy} (h : d.state = c.state) : d.offered = c.offered ∧ d.inService = c.inService := by
  unfold Copy.offered Copy.inService
  rw [h]
  exact ⟨rfl, rfl⟩

theorem park_standing (c : Copy) : c.park.offered = c.offered ∧ c.park.inService = c.inService := by
  unfold Copy.park
  split
  · next h => simp [Copy.offered, Copy.inService, h]
  · exact ⟨rfl, rfl⟩

theorem unpark_standing (c : Copy) : c.unpark.offered = c.offered ∧ c.unpark.inService = c.inService := by
  unfold Copy.unpark
  split
  · next h => simp [Copy.offered, Copy.inService, h]
  · exact ⟨rfl, rfl⟩

theorem mapCopies_agrees {s : State} (h : HostId) {f : Copy → Copy}
    (hf : ∀ c, (f c).offered = c.offered ∧ (f c).inService = c.inService) {k : HostId} (hs : HostAgrees s k) :
    HostAgrees (s.mapCopies h f) k := by
  refine agrees_of_map (s := s) (t := s.mapCopies h f) rfl (record?_mapCopies s h f) (fun r => modifyCopy_priority r h f) (fun r => ?_) hs
  by_cases hk : k = h
  · exact ⟨f, by rw [copy_modifyCopy, if_pos hk, hk], hf⟩
  · exact ⟨id, by rw [copy_modifyCopy, if_neg hk, Option.map_id]; rfl, fun _ => ⟨rfl, rfl⟩⟩

theorem returnToRun_agrees {s : State} (h : HostId) {k : HostId} (hs : HostAgrees s k) : HostAgrees (s.returnToRun h) k := by
  unfold State.returnToRun
  split
  · exact mapCopies_agrees h unpark_standing hs
  · exact mapCopies_agrees h unpark_standing hs
  · exact hs

theorem millisecond_agrees {s : State} {k : HostId} (hs : HostAgrees s k) : HostAgrees s.millisecond k :=
  agrees_of_map (s := s) (t := s.millisecond) (f := Record.tick) rfl (record?_millisecond s) (fun _ => rfl)
    (fun r => ⟨Copy.tick, copy_tick r k, fun c => standing_of_state (tick_state c)⟩) hs

theorem driveLines_agrees {s : State} {k : HostId} (hs : HostAgrees s k) : HostAgrees s.driveLines k :=
  hs.keep (by rw [deliv_driveLines]; exact ⟨rfl, rfl, rfl⟩) fun j => .of_store rfl k j

/-! ## Host cleanup -/

theorem noPart_alike {s t : State} {h : HostId} {i : SlotId} (ha : Alike h i s t) (hs : NoPart s h i) : NoPart t h i :=
  ⟨ha.1.trans hs.1, ha.2.1.trans hs.2⟩

/-- Wakings alone: every host is as it was, or has gone from DEEP to WAKING. -/
def OnlyWoken (s t : State) : Prop := ∀ h, t.host h = s.host h
  ∨ ((s.host h).state = .deep ∧ t.host h = { s.host h with state := .waking, wakeTimer := some (s.host h).wakeLimit })

theorem OnlyWoken.refl (s : State) : OnlyWoken s s := fun _ => .inl rfl

theorem OnlyWoken.trans {s t u : State} (h : OnlyWoken s t) (k : OnlyWoken t u) : OnlyWoken s u := by
  intro x
  rcases h x with hx | ⟨hd, hx⟩ <;> rcases k x with kx | ⟨kd, kx⟩
  · exact .inl (kx.trans hx)
  · rw [hx] at kd kx
    exact .inr ⟨kd, kx⟩
  · exact .inr ⟨hd, kx.trans hx⟩
  · rw [hx] at kd
    cases kd

theorem OnlyWoken.of_hosts {s t : State} (h : t.hosts = s.hosts) : OnlyWoken s t := fun x => .inl (by
  unfold State.host
  rw [h])

theorem OnlyWoken.usable {s t : State} (h : OnlyWoken s t) (k : HostId) : t.usable k = s.usable k := by
  unfold State.usable
  rcases h k with hk | ⟨hd, hk⟩
  · rw [hk]
  · rw [hk, hd]; rfl

/-- A host that is not usable is not woken. -/
theorem OnlyWoken.host_of_not_usable {s t : State} (h : OnlyWoken s t) {k : HostId} (hk : s.usable k = false) :
    t.host k = s.host k := by
  rcases h k with hk' | ⟨hd, -⟩
  · exact hk'
  · unfold State.usable at hk
    rw [hd] at hk
    cases hk

theorem woken_onlyWoken (x : HostRecord) (deepWake : Bool) : x.woken deepWake = x
    ∨ (x.state = .deep ∧ x.woken deepWake = { x with state := .waking, wakeTimer := some x.wakeLimit }) := by
  unfold HostRecord.woken
  split
  · next h => exact .inr ⟨h.1, rfl⟩
  · exact .inl rfl

theorem created_onlyWoken {s t : State} {i : SlotId} {r : Record} {hosts : List HostId} (hc : Created s t i r hosts) :
    OnlyWoken s t := by
  intro h
  by_cases hh : h ∈ hosts
  · rw [hc.woken h hh]
    exact woken_onlyWoken _ _
  · exact .inl (hc.otherHosts h hh)

theorem modifyRecord_hosts (s : State) (i : SlotId) (f : Record → Record) : (s.modifyRecord i f).hosts = s.hosts := by
  unfold State.modifyRecord
  split <;> rfl

theorem Admits.onlyWoken {s t : State} (ha : Admits s t) : OnlyWoken s t := by
  induction ha with
  | refl => exact .refl s
  | outcome n o _ ih => exact ih
  | wait l _ ih => exact ih
  | note i f _ _ ih => exact ih.trans (.of_hosts (modifyRecord_hosts _ i f))
  | make n i k delayed repeats hosts esc _ _ _ hc _ ih => exact ih.trans (created_onlyWoken hc)

theorem closeRecord_hosts (s : State) (i : SlotId) (r : Record) : (s.closeRecord i r).hosts = s.hosts := by
  rw [closeRecord_eq]
  rfl

theorem judge_onlyWoken (s : State) (i : SlotId) : OnlyWoken s (s.judge i) := by
  rcases judge_cases s i with ⟨he, -⟩ | ⟨r, -, -, ha⟩
  · rw [he]; exact .refl s
  · exact (OnlyWoken.of_hosts (closeRecord_hosts s i r)).trans (Admits.onlyWoken ha)

theorem wakeFor_onlyWoken (s : State) (k : HostId) (i : SlotId) : OnlyWoken s (s.wakeFor k i) := by
  intro h
  rw [host_wakeFor]
  split
  · next hw => exact .inr ⟨hw.2.1, rfl⟩
  · exact .inl rfl

theorem escalate_onlyWoken (s : State) (i : SlotId) (trigger : HostId) : OnlyWoken s (s.escalate i trigger) := by
  rcases escalate_cases s i trigger with he | ⟨r, f, -, -, he⟩
  · rw [he]; exact .refl s
  · rw [he]
    exact wakeFor_onlyWoken ((s.setRecord i (s.escalatedRecord r f trigger)).enqueue f i) f i

theorem setCopy_hosts (s : State) (i : SlotId) (h : HostId) (c : Copy) : (s.setCopy i h c).hosts = s.hosts :=
  modifyRecord_hosts s i _

theorem cleanupCopy_onlyWoken (s : State) (h : HostId) (i : SlotId) : OnlyWoken s (s.cleanupCopy h i) := by
  unfold State.cleanupCopy
  split
  · exact .refl s
  · split_ifs
    · exact .refl s
    · exact (OnlyWoken.of_hosts (setCopy_hosts s i h _)).trans (judge_onlyWoken _ i)
    · exact ((OnlyWoken.of_hosts (setCopy_hosts s i h _)).trans (escalate_onlyWoken _ i h)).trans (judge_onlyWoken _ i)

/-- No admission gives a part to a host that is not usable. -/
theorem Admits.noPart {s t : State} (ha : Admits s t) {h : HostId} (hu : s.usable h = false) {i : SlotId}
    (hs : NoPart s h i) : NoPart t h i := by
  induction ha with
  | refl => exact hs
  | outcome n o _ ih => exact ih
  | wait l _ ih => exact ih
  | note j f hf _ ih =>
    refine noPart_alike ?_ ih
    by_cases hj : i = j
    · subst hj; exact Noted.alike hf (by rw [record?_modifyRecord, if_pos rfl]) h
    · exact .of_record (by rw [record?_modifyRecord, if_neg hj])
  | make n j k delayed repeats hosts esc _ hr hi hc hprev ih =>
    have hh : h ∉ hosts := fun hm => by
      have h1 := hr.usable h hm
      rw [OnlyWoken.usable (Admits.onlyWoken hprev), hu] at h1
      cases h1
    by_cases hj : i = j
    · subst hj
      refine noPart_iff.mpr fun c hcp => ?_
      rw [copy?_of_record (r := madeRecord _ n k delayed repeats hosts esc) (by rw [created_record? hc, if_pos rfl]),
        copy_madeRecord, if_neg hh] at hcp
      cases hcp
    · exact noPart_alike (.of_record (by rw [created_record? hc, if_neg hj])) ih

theorem judge_noPart {s : State} {j : SlotId} {h : HostId} (hu : s.usable h = false) {i : SlotId} (hs : NoPart s h i) :
    NoPart (s.judge j) h i := by
  rcases judge_cases s j with ⟨he, -⟩ | ⟨r, -, -, ha⟩
  · rw [he]; exact hs
  · have hclosed : NoPart (s.closeRecord j r) h i := by
      by_cases hj : i = j
      · subst hj; exact noPart_of_free (record?_closeRecord_same s i r) h
      · exact noPart_alike (.of_record ((closeRecord_onlySlot s j r).record? hj)) hs
    refine Admits.noPart ha ?_ hclosed
    rw [(OnlyWoken.of_hosts (closeRecord_hosts s j r)).usable]
    exact hu

theorem usable_setCopy (s : State) (i : SlotId) (h k : HostId) (c : Copy) : (s.setCopy i h c).usable k = s.usable k :=
  (OnlyWoken.of_hosts (setCopy_hosts s i h c)).usable k

/-- Cleanup of one copy leaves the host no part in that slot (R152, step 2). -/
theorem cleanupCopy_ends {s : State} {h : HostId} (hu : s.usable h = false) (i : SlotId) :
    NoPart (s.cleanupCopy h i) h i := by
  unfold State.cleanupCopy
  cases hc : s.copy? i h with
  | none => exact noPart_iff.mpr fun c hc' => by rw [hc] at hc'; cases hc'
  | some c =>
    dsimp only
    split_ifs with ht hst
    · exact noPart_iff.mpr fun c' hc' => by rw [hc] at hc'; cases hc'; exact ht
    · exact judge_noPart (by rw [usable_setCopy]; exact hu) (noPart_setCopy hc rfl)
    · refine judge_noPart ?_ (noPart_iff.mpr fun c' hc' => ?_)
      · rw [(escalate_onlyWoken _ i h).usable, usable_setCopy]
        exact hu
      · rw [copy?_escalate_of_copy (copy?_setCopy_same hc _)] at hc'
        cases hc'
        rfl

theorem cleanupCopy_noPart {s : State} {h : HostId} (hu : s.usable h = false) {i j : SlotId} (hs : NoPart s h i) :
    NoPart (s.cleanupCopy h j) h i := by
  by_cases hij : i = j
  · subst hij; exact cleanupCopy_ends hu i
  · unfold State.cleanupCopy
    split
    · exact hs
    · split_ifs
      · exact hs
      · exact judge_noPart (by rw [usable_setCopy]; exact hu)
          (noPart_alike (.of_record ((setCopy_onlySlot s j h _).record? hij)) hs)
      · refine judge_noPart ?_
          (noPart_alike (.of_record (((setCopy_onlySlot s j h _).trans (escalate_onlySlot _ j h)).record? hij)) hs)
        rw [(escalate_onlyWoken _ j h).usable, usable_setCopy]
        exact hu

theorem foldl_cleanupCopy_usable (h k : HostId) (l : List SlotId) (s : State) :
    (l.foldl (fun t i => t.cleanupCopy h i) s).usable k = s.usable k := by
  induction l generalizing s with
  | nil => rfl
  | cons j js ih => rw [List.foldl_cons, ih, (cleanupCopy_onlyWoken s h j).usable]

/-- Cleanup of the copies one by one leaves the host no part in any of their slots. -/
theorem foldl_cleanupCopy_noPart {h : HostId} (l : List SlotId) {s : State} (hu : s.usable h = false) {i : SlotId}
    (hi : i ∈ l ∨ NoPart s h i) : NoPart (l.foldl (fun t j => t.cleanupCopy h j) s) h i := by
  induction l generalizing s with
  | nil => exact hi.resolve_left (by simp)
  | cons j js ih =>
    rw [List.foldl_cons]
    refine ih (by rw [(cleanupCopy_onlyWoken s h j).usable]; exact hu) ?_
    rcases hi with hi | hi
    · rcases List.mem_cons.mp hi with rfl | hi
      · exact .inr (cleanupCopy_ends hu i)
      · exact .inl hi
    · exact .inr (cleanupCopy_noPart hu hi)

theorem cleanupCopy_agrees_other {s : State} {h : HostId} (i : SlotId) {k : HostId} (hk : k ≠ h) (hs : HostAgrees s k) :
    HostAgrees (s.cleanupCopy h i) k := by
  unfold State.cleanupCopy
  split
  · exact hs
  · split_ifs
    · exact hs
    · exact judge_agrees i (setCopy_agrees_other i _ hk hs)
    · exact judge_agrees i (escalate_agrees i h (setCopy_agrees_other i _ hk hs))

theorem voidFor_priority (r : Record) (h : HostId) : (r.voidFor h).priority = r.priority := by
  unfold Record.voidFor
  split
  · split <;> rfl
  · rfl

theorem voidReservations_hosts (s : State) (h : HostId) : (s.voidReservations h).hosts = s.hosts := by
  have hvoid : (allSlots.foldl (fun t i => t.modifyRecord i (fun r => r.voidFor h)) s).hosts = s.hosts :=
    foldl_keeps (P := fun t => t.hosts = s.hosts) (fun _ _ ht => (modifyRecord_hosts _ _ _).trans ht) allSlots rfl
  unfold State.voidReservations
  generalize allSlots.foldl _ s = t at hvoid
  exact hvoid

theorem voidReservations_agrees {s : State} (h : HostId) {k : HostId} (hs : HostAgrees s k) :
    HostAgrees (s.voidReservations h) k := by
  have hvoid : HostAgrees (allSlots.foldl (fun t i => t.modifyRecord i (fun r => r.voidFor h)) s) k :=
    foldl_keeps (P := fun t => HostAgrees t k)
      (fun _ i ht => modifyRecord_agrees i (fun r => voidFor_priority r h) (fun r => voidFor_copies r h) ht) _ hs
  unfold State.voidReservations
  generalize allSlots.foldl _ s = t at hvoid
  exact hvoid

theorem clearDelivery_noPart {s : State} {k h : HostId} {i : SlotId} (hs : NoPart s h i) : NoPart (s.clearDelivery k) h i := hs

theorem cleanup_noPart {s : State} {h : HostId} (hu : s.usable h = false) (i : SlotId) : NoPart (s.cleanup h) h i := by
  unfold State.cleanup
  refine clearDelivery_noPart (foldl_cleanupCopy_noPart allSlots ?_ (.inl (mem_allSlots i)))
  rw [(OnlyWoken.of_hosts (voidReservations_hosts s h)).usable]
  exact hu

/-- After its cleanup a host that is not usable has an empty queue and stack, and the other hosts' stay in order. -/
theorem cleanup_agrees {s : State} {h : HostId} (hu : s.usable h = false) {k : HostId} (hs : k ≠ h → HostAgrees s k) :
    HostAgrees (s.cleanup h) k := by
  have hnone := cleanup_noPart hu
  unfold State.cleanup at hnone ⊢
  by_cases hk : k = h
  · subst hk
    refine HostAgrees.of_empty ?_ ?_ ?_ hnone <;> rw [deliv_clearDelivery, if_pos rfl]
  · have hcopies : HostAgrees (allSlots.foldl (fun t i => t.cleanupCopy h i) (s.voidReservations h)) k :=
      foldl_keeps (P := fun t => HostAgrees t k) (fun _ i ht => cleanupCopy_agrees_other i hk ht) _
        (voidReservations_agrees h (hs hk))
    refine hcopies.keep (SameOrder.of_eq ?_) fun j => .of_store (clearDelivery_store _ _) k j
    rw [deliv_clearDelivery, if_neg hk]

/-! ## FLUSHALL -/

/-- A record with every copy changed by `g`. -/
def mapAll (g : Copy → Copy) (r : Record) : Record := { r with copies := vof (fun h => (r.copy h).map g) }

theorem copy_mapAll (g : Copy → Copy) (r : Record) (h : HostId) : (mapAll g r).copy h = (r.copy h).map g := vget_vof _ h

theorem modifyCopy_eq (r : Record) (h : HostId) (g : Copy → Copy) :
    r.modifyCopy h g = { r with copies := vof (fun k => if k = h then (r.copy h).map g else r.copy k) } := by
  have hcopies : (r.modifyCopy h g).copies = vof (fun k => if k = h then (r.copy h).map g else r.copy k) :=
    ext_vget fun k => by rw [vget_vof]; exact copy_modifyCopy r h k g
  rw [← hcopies]
  unfold Record.modifyCopy
  split <;> rfl

theorem foldl_modifyCopy (g : Copy → Copy) (l : List HostId) (hl : l.Nodup) (r : Record) :
    l.foldl (fun r h => r.modifyCopy h g) r
      = { r with copies := vof (fun k => if k ∈ l then (r.copy k).map g else r.copy k) } := by
  induction l generalizing r with
  | nil => simp [Record.copy]
  | cons h hs ih =>
    obtain ⟨hh, hnd⟩ := List.nodup_cons.mp hl
    rw [List.foldl_cons, ih hnd, modifyCopy_eq]
    congr 1
    refine ext_vget fun k => ?_
    simp only [vget_vof, Record.copy, List.mem_cons]
    by_cases hk : k = h
    · subst hk; simp [hh]
    · simp [hk]

/-- Every host's copy changed in turn is every copy changed. -/
theorem foldl_modifyCopy_allHosts (g : Copy → Copy) (r : Record) :
    allHosts.foldl (fun r h => r.modifyCopy h g) r = mapAll g r := by
  rw [foldl_modifyCopy g allHosts (List.nodup_finRange 4)]
  simp [mapAll]

/-- A fold of operations that each change the record of slot `i` folds the changes. -/
theorem record?_foldl {α : Type} {f : State → α → State} {g : α → Record → Record} {i : SlotId}
    (hf : ∀ s x, (f s x).record? i = (s.record? i).map (g x)) (l : List α) (s : State) :
    (l.foldl f s).record? i = (s.record? i).map (fun r => l.foldl (fun r x => g x r) r) := by
  induction l generalizing s with
  | nil => simp
  | cons x xs ih =>
    rw [List.foldl_cons, ih, hf, Option.map_map]
    rfl

/-- What withdrawal makes of a copy (R74). -/
def withdrawn (c : Copy) : Copy :=
  if c.state = .pending ∨ c.state = .parked then c.ended .withdrawn
  else if c.state = .taken ∨ c.state = .overdue then c.ended .stale
  else c

theorem record?_setCopy_of_copy {s : State} {i : SlotId} {h : HostId} {c : Copy} (hc : s.copy? i h = some c) (g : Copy → Copy) :
    (s.setCopy i h (g c)).record? i = (s.record? i).map (fun r => r.modifyCopy h g) := by
  obtain ⟨r, hr, hrc⟩ := copy?_eq_some.mp hc
  rw [record?_setCopy, if_pos rfl, hr]
  simp only [Option.map_some, Record.modifyCopy, hrc]

theorem modifyCopy_of_none {r : Record} {h : HostId} (hc : r.copy h = none) (g : Copy → Copy) : r.modifyCopy h g = r := by
  simp only [Record.modifyCopy, hc]

theorem copy_ext {r r' : Record} (h : r' = { r with copies := r'.copies }) (hc : ∀ k, r'.copy k = r.copy k) : r' = r := by
  have hcopies : r'.copies = r.copies := ext_vget hc
  rw [h, hcopies]

theorem modifyCopy_of_fixed {r : Record} {h : HostId} {g : Copy → Copy} (hg : ∀ c, r.copy h = some c → g c = c) :
    r.modifyCopy h g = r := by
  cases hc : r.copy h with
  | none => exact modifyCopy_of_none hc g
  | some c =>
    refine copy_ext (by rw [modifyCopy_eq]) fun k => ?_
    rw [copy_modifyCopy]
    split
    · next e => rw [e, hc, Option.map_some, hg c hc]
    · rfl

/-- A record that stays where its host's copy is one that `g` leaves as it is. -/
theorem record?_of_fixed {s : State} {i : SlotId} {h : HostId} {g : Copy → Copy} (hg : ∀ c, s.copy? i h = some c → g c = c) :
    s.record? i = (s.record? i).map (fun r => r.modifyCopy h g) := by
  cases hr : s.record? i with
  | none => rfl
  | some r => exact congrArg some (modifyCopy_of_fixed fun c hc => hg c ((copy?_of_record hr h).trans hc)).symm

theorem record?_withdrawCopy (s : State) (i : SlotId) (h : HostId) :
    (s.withdrawCopy i h).record? i = (s.record? i).map (fun r => r.modifyCopy h withdrawn) := by
  unfold State.withdrawCopy
  split
  · next hc => exact record?_of_fixed fun c hc' => by rw [hc] at hc'; cases hc'
  · next c hc =>
    have hset := record?_setCopy_of_copy hc withdrawn
    split
    · next hx => rw [withdrawn, if_pos (.inl hx)] at hset; exact hset
    · next hx => rw [withdrawn, if_pos (.inr hx)] at hset; exact hset
    · next hx => rw [withdrawn, if_neg (by simp [hx]), if_pos (.inl hx)] at hset; exact hset
    · next hx => rw [withdrawn, if_neg (by simp [hx]), if_pos (.inr hx)] at hset; exact hset
    · next h1 h2 h3 h4 =>
      refine record?_of_fixed fun c' hc' => ?_
      rw [hc] at hc'
      cases hc'
      rw [withdrawn, if_neg (not_or.mpr ⟨h1, h2⟩), if_neg (not_or.mpr ⟨h3, h4⟩)]

/-- Withdrawal changes each copy of the record by R74. -/
theorem record?_withdraw (s : State) (i : SlotId) :
    (s.withdraw i).record? i = (s.record? i).map (mapAll withdrawn) := by
  unfold State.withdraw
  rw [record?_foldl (fun s h => record?_withdrawCopy s i h)]
  simp only [foldl_modifyCopy_allHosts]

/-- What FLUSHALL makes of a STALE copy (R21). -/
def staleEnded (c : Copy) : Copy := if c.state = .stale then c.ended .withdrawn else c

theorem record?_endStale (s : State) (i : SlotId) (h : HostId) :
    (s.endStale i h).record? i = (s.record? i).map (fun r => r.modifyCopy h staleEnded) := by
  unfold State.endStale
  split
  · next hc => exact record?_of_fixed fun c hc' => by rw [hc] at hc'; cases hc'
  · next c hc =>
    split
    · next hx =>
      have hset := record?_setCopy_of_copy hc staleEnded
      rw [staleEnded, if_pos hx] at hset
      exact hset
    · next hx =>
      refine record?_of_fixed fun c' hc' => ?_
      rw [hc] at hc'
      cases hc'
      exact if_neg hx

theorem staleEnded_withdrawn (c : Copy) : staleEnded (withdrawn c) =
    if c.state.terminal then c else { c with state := .withdrawn, deadline := none, grace := none } := by
  unfold staleEnded withdrawn Copy.ended
  cases hx : c.state <;> simp [CopyState.terminal, hx]

/-- Before a flushed record closes, it is purged and each copy that was not terminal is WITHDRAWN (R21). -/
theorem record?_flushed (s : State) (i : SlotId) :
    (allHosts.foldl (fun u h => u.endStale i h) ((s.markPurged i).withdraw i)).record? i
      = (s.record? i).map Record.flushed := by
  rw [record?_foldl (fun s h => record?_endStale s i h), record?_withdraw, State.markPurged, record?_modifyRecord, if_pos rfl]
  simp only [foldl_modifyCopy_allHosts, Option.map_map]
  congr 1
  funext r
  have hended : staleEnded ∘ withdrawn = fun c =>
      if c.state.terminal then c else { c with state := .withdrawn, deadline := none, grace := none } :=
    funext staleEnded_withdrawn
  simp only [Function.comp_apply, mapAll, Record.flushed, Record.copy, vget_vof, Option.map_map, hended]

theorem flushed_finished (r : Record) : r.flushed.finished = true := by
  refine finished_iff.mpr fun h c hc => ?_
  have hcopy : r.flushed.copy h = (r.copy h).map _ := vget_vof _ h
  rw [hcopy] at hc
  obtain ⟨d, -, rfl⟩ := Option.map_eq_some_iff.mp hc
  split
  · next ht => exact ht
  · rfl

/-- FLUSHALL's end of a live record closes it as flushed; a FREE slot stays as it is. -/
theorem record?_flushRecord (s : State) (i j : SlotId) :
    (s.flushRecord i).record? j = if j = i then none else s.record? j := by
  obtain ⟨t, hst, ht, hcases⟩ := flushRecord_cases s i
  have hrec := record?_flushed s i
  rw [← ht] at hrec
  have hgone : (s.flushRecord i).record? i = none := by
    rcases hcases with ⟨he, hun⟩ | ⟨r, -, -, he⟩
    · rw [he, hrec]
      cases hr : s.record? i with
      | none => rfl
      | some r => exact absurd (hun r.flushed (by rw [hrec, hr]; rfl)) (by simp [flushed_finished])
    · rw [he]
      exact record?_closeRecord_same t i r
  split
  · next e => rw [e]; exact hgone
  · next e =>
    rcases hcases with ⟨he, -⟩ | ⟨r, -, -, he⟩
    · rw [he]; exact hst.record? e
    · rw [he]; exact (hst.trans (closeRecord_onlySlot t i r)).record? e

theorem record?_foldl_flushRecord (l : List SlotId) (s : State) (j : SlotId) :
    (l.foldl State.flushRecord s).record? j = if j ∈ l then none else s.record? j := by
  induction l generalizing s with
  | nil => simp
  | cons i is ih =>
    rw [List.foldl_cons, ih, record?_flushRecord]
    by_cases hj : j = i
    · simp [hj]
    · simp [hj]

theorem foldl_clearDelivery_store (l : List HostId) (s : State) : (l.foldl State.clearDelivery s).store = s.store := by
  induction l generalizing s with
  | nil => rfl
  | cons h hs ih => rw [List.foldl_cons, ih, clearDelivery_store]

theorem mem_liveSlots {s : State} {i : SlotId} : i ∈ s.liveSlots ↔ (s.record? i).isSome = true := by
  simp [State.liveSlots]

/-- The stores emptied hold no record. -/
theorem record?_flushStores (s : State) (i : SlotId) : s.flushStores.record? i = none := by
  unfold State.flushStores
  rw [record?_of_store (foldl_clearDelivery_store _ _), record?_foldl_flushRecord]
  split
  · rfl
  · next hi =>
    have hnone : ¬ (s.record? i).isSome = true := fun h => hi (mem_liveSlots.mpr h)
    have hfree : s.record? i = none := by simpa using hnone
    exact hfree

theorem deliv_foldl_clearDelivery (l : List HostId) (s : State) (k : HostId) :
    (l.foldl State.clearDelivery s).deliv k =
      if k ∈ l then { s.deliv k with queue := [], stack := [], runningLevel := 0 } else s.deliv k := by
  induction l generalizing s with
  | nil => simp
  | cons h hs ih =>
    rw [List.foldl_cons, ih, deliv_clearDelivery]
    by_cases hk : k = h
    · subst hk; simp
    · simp [hk]

theorem flushStores_agrees (s : State) (k : HostId) : HostAgrees s.flushStores k := by
  have hd := deliv_foldl_clearDelivery allHosts (s.liveSlots.foldl State.flushRecord { s with waitList := [] }) k
  rw [if_pos (mem_allHosts k)] at hd
  have hd' : s.flushStores.deliv k = _ := hd
  refine HostAgrees.of_empty ?_ ?_ ?_ fun j => noPart_of_free (record?_flushStores s j) k <;> rw [hd']

theorem flushAll_agrees (s : State) (k : HostId) : HostAgrees s.flushAll k :=
  foldl_keeps (P := fun t => HostAgrees t k) (fun t n ht => Admits.agrees (flushRearm_admits t n) ht) _ (flushStores_agrees s k)

/-! ## The events -/

theorem openSession_agrees {s : State} (h : HostId) (grace wake : Nat) {k : HostId} (hs : HostAgrees s k) :
    HostAgrees (s.openSession h grace wake) k := by
  refine hs.keep ?_ fun j => .of_store (openSession_store s h grace wake) k j
  unfold State.openSession
  rw [deliv_setDeliv]
  split
  · next e => rw [e]; exact ⟨rfl, rfl, rfl⟩
  · exact ⟨rfl, rfl, rfl⟩

theorem usable_setHost_same (s : State) (h : HostId) (x : HostRecord) : (s.setHost h x).usable h = x.state.usable := by
  unfold State.usable
  rw [host_setHost_same]

theorem detachHost_agrees {s : State} (h : HostId) {k : HostId} (hs : HostAgrees s k) : HostAgrees (s.detachHost h) k := by
  unfold State.detachHost
  exact cleanup_agrees (usable_setHost_same s h _) fun _ => hs

theorem freshAttach_agrees {s : State} (h : HostId) (grace wake : Nat) {k : HostId} (hs : HostAgrees s k) :
    HostAgrees (s.freshAttach h grace wake) k :=
  openSession_agrees h grace wake (detachHost_agrees h hs)

theorem loseHost_agrees {s : State} (h : HostId) {k : HostId} (hs : HostAgrees s k) : HostAgrees (s.loseHost h) k := by
  unfold State.loseHost
  refine Admits.agrees (admission_admits _ _) ?_
  exact cleanup_agrees (usable_setHost_same s h _) fun _ => hs

theorem createPost_agrees {s : State} {p : HostId} {n : SourceId} {i : SlotId} (payload : BitVec 16) (receipt : Bool)
    {hosts : List HostId} {esc : Bool} (hr : Recipients s (s.route n).config hosts esc) (hi : LowestFree s i) {k : HostId}
    (hs : HostAgrees s k) : HostAgrees (s.createPost p n i payload receipt hosts esc) k := by
  obtain ⟨u, hc, he⟩ := createPost_cases s (p := p) (i := i) payload receipt hr
  have hu := created_agrees hc hi hs
  rw [he]
  split
  · exact hu
  · exact hu

theorem purgeRecord_agrees {s : State} (i : SlotId) {k : HostId} (hs : HostAgrees s k) : HostAgrees (s.purgeRecord i) k :=
  judge_agrees i (withdraw_agrees i (markPurged_agrees i hs))

theorem expirePending_agrees {s : State} {i : SlotId} {h : HostId} {c : Copy} (hc : s.copy? i h = some c)
    (hx : c.state = .pending) {k : HostId} (hs : HostAgrees s k) : HostAgrees (s.expirePending i h c) k :=
  judge_agrees i (escalate_agrees i h (endOffered_agrees hc (by simp [Copy.offered, hx]) rfl hs))

theorem expireTaken_agrees {s : State} {i : SlotId} {h : HostId} {c : Copy} (hc : s.copy? i h = some c)
    (hx : c.state = .taken) {k : HostId} (hs : HostAgrees s k) : HostAgrees (s.expireTaken i h c) k :=
  escalate_agrees i h (setCopy_agrees hc (by simp [Copy.offered, hx]) (by simp [Copy.inService, hx]) hs)

theorem deadlineDue_cases {c : Copy} (h : c.deadlineDue = true) :
    c.deadline = some 0 ∧ (c.state = .pending ∨ c.state = .taken) := by
  unfold Copy.deadlineDue at h
  cases hx : c.state <;> simp_all

theorem deadlineExpiry_agrees {s : State} (i : SlotId) (h : HostId) {k : HostId} (hs : HostAgrees s k) :
    HostAgrees (s.deadlineExpiry i h) k := by
  unfold State.deadlineExpiry
  split
  · exact hs
  · next c hc =>
    split_ifs with hdue hx
    · exact expirePending_agrees hc hx hs
    · exact expireTaken_agrees hc ((deadlineDue_cases hdue).2.resolve_left hx) hs
    · exact hs

theorem agrees_rule {s t : State} {p k : HostId} (hs : HostAgrees s k) (h : RuleEffect s p t) : HostAgrees t k := by
  cases h with
  | nothing => exact hs
  | openSession grace wake => exact openSession_agrees p grace wake hs
  | reopenSession grace wake => exact Admits.agrees (admission_admits _ _) (openSession_agrees p grace wake hs)
  | freshSession grace wake => exact freshAttach_agrees p grace wake hs
  | detach => exact detachHost_agrees p hs
  | sleep =>
    unfold State.sleepHost
    exact mapCopies_agrees p park_standing (s := s.setHostState p .deep) hs
  | level threshold accepting =>
    refine hs.keep ?_ fun j => .of_store rfl k j
    rw [deliv_setDeliv]
    split
    · next e => rw [e]; exact ⟨rfl, rfl, rfl⟩
    · exact ⟨rfl, rfl, rfl⟩
  | take i _ hroom hh hg => exact takeHead_agrees hh hg hroom hs
  | ackTaken i c _ hc _ htop => exact judge_agrees i (ackTaken_agrees hc htop hs)
  | ackOverdue i c _ hc _ htop => exact judge_agrees i (ackOverdue_agrees hc htop hs)
  | ackStale i c _ hc _ htop => exact judge_agrees i (ackStale_agrees hc htop hs)
  | noTarget => exact hs
  | post n i payload receipt hosts esc _ _ _ _ hr hi =>
    exact createPost_agrees payload receipt hr (allocate?_lowestFree hi) hs
  | receipt => exact hs
  | routeWrite n c =>
    exact Admits.agrees (writeRoute_admits s n c) (s := s.setRoute n { s.route n with config := c }) hs
  | purge n =>
    unfold State.purgeSource
    exact foldl_keeps (P := fun t => HostAgrees t k) (fun _ i ht => purgeRecord_agrees i ht) _ (s := s.dropWaiting n) hs
  | lineWrite => exact hs
  | flushAll => exact flushAll_agrees s k
  | restore => exact hs

theorem lossDetected_agrees {s : State} {k : HostId} (hs : HostAgrees s k) : HostAgrees s.lossDetected k := by
  unfold State.lossDetected
  split_ifs
  · exact Admits.agrees (admission_admits _ _)
      (s := { s with clock := { s.clock.loseRef with state := .backup } }) hs
  · exact hs
  · exact hs

theorem resetWith_agrees (adm : HostId) (k : HostId) : HostAgrees (State.resetWith adm) k := by
  have hd : (State.resetWith adm).deliv k = Delivery.atReset := vget_replicate _ k
  have hfree : ∀ i, (State.resetWith adm).record? i = none := fun i => congrArg Slot.record (vget_replicate _ i)
  refine HostAgrees.of_empty ?_ ?_ ?_ fun j => noPart_of_free (hfree j) k <;> rw [hd] <;> rfl

theorem agrees_keptByEvents (k : HostId) : KeptByEvents (fun s => HostAgrees s k) where
  reset _ pins _ := resetWith_agrees pins.straps k
  queue _ _ hs := hs
  port _ _ _ hs := hs
  drive _ hs := driveLines_agrees hs
  awake _ p hs := returnToRun_agrees p hs
  rule _ _ _ _ hs h := agrees_rule hs h
  millisecond _ hs := millisecond_agrees hs
  sample _ _ levels order hs :=
    sampleAll_keeps (P := fun t => HostAgrees t k) levels order
      (fun u n b hu _ => Admits.agrees (sampleLine_admits u n b) (s := u.setLine n ((u.line n).sampled b)) hu) hs
  deadline _ i h hs := deadlineExpiry_agrees i h hs
  loss _ h hs := loseHost_agrees h hs
  refLost _ hs := lossDetected_agrees hs
  risingEdge _ hs := hs
  stable _ hs := hs
  cycle _ hs := hs

/-- Settles O57: each kind of event keeps every host's queue and stack in order and in agreement with its copies. -/
theorem queuesAndStacksStayInOrder : Obligations.QueuesAndStacksStayInOrder :=
  fun _ _ hs h k => (agrees_keptByEvents k).step (hs k) h

end Sys2Proof.Proofs.QueueOrder
end

section
/-! PROOFS. Hosts and receipts (R128, R136, R140, R148): the wake timers, the reservations with the receipts, and the copies of hosts in OFFLINE
or LOST, each followed through the operations. -/

namespace Sys2Proof.Proofs.HostsAndReceipts

open Sys2Proof Sys2Proof.Machine Sys2Proof.Proofs.StepEffects Sys2Proof.Proofs.Configuration Sys2Proof.Proofs.RecordLife
  Sys2Proof.Proofs.QueueOrder

/-! ## Counting records -/

theorem countRecords_eq (s : State) (f : Record → Bool) : s.countRecords f = allSlots.countP (fun i => (s.record? i).any f) := by
  unfold State.countRecords
  congr 1
  funext i
  cases s.record? i <;> rfl

theorem countRecords_congr {s t : State} {f : Record → Bool} (h : ∀ i, (t.record? i).any f = (s.record? i).any f) :
    t.countRecords f = s.countRecords f := by
  rw [countRecords_eq, countRecords_eq]
  exact congrArg (fun g => allSlots.countP g) (funext h)

theorem countP_allSlots_change (i : SlotId) (f g : SlotId → Bool) (h : ∀ j, j ≠ i → f j = g j) :
    allSlots.countP f + (if g i = true then 1 else 0) = allSlots.countP g + (if f i = true then 1 else 0) :=
  countP_finRange_change i f g h

/-- The counts of two states that differ in one slot differ by what that slot counts. -/
theorem countRecords_onlySlot {s t : State} {i : SlotId} (h : OnlySlot i s t) (f : Record → Bool) :
    t.countRecords f + (if (s.record? i).any f = true then 1 else 0)
      = s.countRecords f + (if (t.record? i).any f = true then 1 else 0) := by
  rw [countRecords_eq, countRecords_eq]
  exact countP_allSlots_change i (fun j => (t.record? j).any f) (fun j => (s.record? j).any f) fun j hj => by
    rw [h.record? hj]

/-- A record counted is one at least. -/
theorem one_le_countRecords {s : State} {i : SlotId} {r : Record} {f : Record → Bool} (hr : s.record? i = some r)
    (hf : f r = true) : 1 ≤ s.countRecords f := by
  rw [countRecords_eq]
  exact List.countP_pos_iff.mpr ⟨i, mem_allSlots i, by rw [hr]; exact hf⟩

theorem countRecords_eq_zero {s : State} {f : Record → Bool} (h : ∀ i r, s.record? i = some r → f r = false) :
    s.countRecords f = 0 := by
  rw [countRecords_eq]
  refine List.countP_eq_zero.mpr fun i _ => ?_
  cases hr : s.record? i with
  | none => simp
  | some r => simp [h i r hr]

/-! ## Wake timers -/

/-- The wake timer runs exactly in WAKING (R148). -/
def TimersLegal (s : State) : Prop := ∀ h, (s.host h).wakeTimer.isSome = true ↔ (s.host h).state = .waking

theorem TimersLegal.woken {s t : State} (hs : TimersLegal s) (h : OnlyWoken s t) : TimersLegal t := by
  intro k
  rcases h k with hk | ⟨-, hk⟩
  · rw [hk]; exact hs k
  · rw [hk]; simp

/-- One host written with its timer none outside WAKING. -/
theorem TimersLegal.setHost {s : State} (hs : TimersLegal s) (h : HostId) {x : HostRecord} (ht : x.wakeTimer = none)
    (hx : x.state ≠ .waking) : TimersLegal (s.setHost h x) := by
  intro k
  rw [host_setHost]
  split
  · simp [ht, hx]
  · exact hs k

theorem TimersLegal.none {s : State} (hs : TimersLegal s) {h : HostId} (hx : (s.host h).state ≠ .waking) :
    (s.host h).wakeTimer = none := by
  cases ht : (s.host h).wakeTimer with
  | none => rfl
  | some n => exact absurd ((hs h).mp (by rw [ht]; rfl)) hx

/-! ## Reservations -/

/-- Receipts, reservations and RESERVED records are as before. -/
def SameReserved (s t : State) : Prop :=
  t.posts = s.posts ∧ ∀ i h, (t.record? i).any (Record.reservedBy h) = (s.record? i).any (Record.reservedBy h)

theorem SameReserved.refl (s : State) : SameReserved s s := ⟨rfl, fun _ _ => rfl⟩

theorem SameReserved.trans {s t u : State} (h : SameReserved s t) (k : SameReserved t u) : SameReserved s u :=
  ⟨k.1.trans h.1, fun i x => (k.2 i x).trans (h.2 i x)⟩

theorem SameReserved.foldl {α : Type} (f : State → α → State) (hf : ∀ s x, SameReserved s (f s x)) (l : List α) (s : State) :
    SameReserved s (l.foldl f s) := by
  induction l generalizing s with
  | nil => exact .refl s
  | cons x xs ih => exact (hf s x).trans (ih _)

theorem SameReserved.of_store {s t : State} (hp : t.posts = s.posts) (h : t.store = s.store) : SameReserved s t :=
  ⟨hp, fun i _ => by rw [record?_of_store h i]⟩

/-- Records written without touching whose reservation they are. -/
theorem SameReserved.of_map {s t : State} {f : SlotId → Record → Record} (hp : t.posts = s.posts)
    (ht : ∀ i, t.record? i = (s.record? i).map (f i)) (hf : ∀ i r h, (f i r).reservedBy h = r.reservedBy h) :
    SameReserved s t := by
  refine ⟨hp, fun i h => ?_⟩
  rw [ht i]
  cases s.record? i with
  | none => rfl
  | some r => exact hf i r h

theorem modifyRecord_posts (s : State) (i : SlotId) (f : Record → Record) : (s.modifyRecord i f).posts = s.posts := by
  unfold State.modifyRecord
  split <;> rfl

theorem modifyRecord_sameReserved (s : State) (i : SlotId) {f : Record → Record}
    (hf : ∀ r h, (f r).reservedBy h = r.reservedBy h) : SameReserved s (s.modifyRecord i f) := by
  refine ⟨modifyRecord_posts s i f, fun j h => ?_⟩
  rw [record?_modifyRecord]
  split
  · next e =>
    subst e
    cases s.record? j with
    | none => rfl
    | some r => exact hf r h
  · rfl

theorem setCopy_sameReserved (s : State) (i : SlotId) (h : HostId) (c : Copy) : SameReserved s (s.setCopy i h c) :=
  modifyRecord_sameReserved s i fun _ _ => rfl

theorem withdrawCopy_sameReserved (s : State) (i : SlotId) (h : HostId) : SameReserved s (s.withdrawCopy i h) := by
  unfold State.withdrawCopy
  split
  · exact .refl s
  · split
    · exact (setCopy_sameReserved s i h _).trans (.of_store rfl rfl)
    · exact (setCopy_sameReserved s i h _).trans (.of_store rfl rfl)
    · exact setCopy_sameReserved s i h _
    · exact setCopy_sameReserved s i h _
    · exact .refl s

theorem withdraw_sameReserved (s : State) (i : SlotId) : SameReserved s (s.withdraw i) :=
  .foldl _ (fun t h => withdrawCopy_sameReserved t i h) _ s

theorem markPurged_sameReserved (s : State) (i : SlotId) : SameReserved s (s.markPurged i) :=
  modifyRecord_sameReserved s i fun _ _ => rfl

theorem wakeFor_posts (s : State) (h : HostId) (i : SlotId) : (s.wakeFor h i).posts = s.posts := by
  unfold State.wakeFor
  split <;> rfl

theorem escalate_sameReserved (s : State) (i : SlotId) (trigger : HostId) : SameReserved s (s.escalate i trigger) := by
  rcases escalate_cases s i trigger with he | ⟨r, f, hr, -, he⟩
  · rw [he]; exact .refl s
  · rw [he]
    have hset : SameReserved s ((s.setRecord i (s.escalatedRecord r f trigger)).enqueue f i) := by
      refine ⟨rfl, fun j h => ?_⟩
      show ((s.setRecord i (s.escalatedRecord r f trigger)).record? j).any _ = _
      rw [record?_setRecord]
      split
      · next e => rw [e, hr]; rfl
      · rfl
    exact hset.trans (.of_store (wakeFor_posts _ _ _) (wakeFor_store _ _ _))

theorem endStale_sameReserved (s : State) (i : SlotId) (h : HostId) : SameReserved s (s.endStale i h) := by
  unfold State.endStale
  split
  · exact .refl s
  · split
    · exact (setCopy_sameReserved s i h _).trans (.of_store rfl rfl)
    · exact .refl s

theorem modifyCopy_reservedBy (r : Record) (h k : HostId) (f : Copy → Copy) :
    (r.modifyCopy h f).reservedBy k = r.reservedBy k := by
  rw [modifyCopy_eq]
  rfl

theorem mapCopies_sameReserved (s : State) (h : HostId) (f : Copy → Copy) : SameReserved s (s.mapCopies h f) :=
  .of_map (f := fun _ r => r.modifyCopy h f) rfl (record?_mapCopies s h f) fun _ r k => modifyCopy_reservedBy r h k f

theorem millisecond_sameReserved (s : State) : SameReserved s s.millisecond :=
  .of_map (f := fun _ r => r.tick) rfl (record?_millisecond s) fun _ _ _ => rfl

theorem close_reservedBy (r : Record) (h : HostId) : r.close.reservedBy h = r.reservedBy h := by
  unfold Record.close
  split
  · next hk => simp [Record.reservedBy, hk]
  · rfl

theorem takeHead_sameReserved (s : State) (p : HostId) (i : SlotId) : SameReserved s (s.takeHead p i) := by
  unfold State.takeHead
  refine (SameReserved.of_store (t := s.pushStack p i) rfl (pushStack_store s p i)).trans
    (modifyRecord_sameReserved _ i fun r h => ?_)
  rw [close_reservedBy, modifyCopy_reservedBy]

theorem unposted_reservedBy {r : Record} (h : ∀ payload p x, r.particulars ≠ .posted payload p x) (k : HostId) :
    r.reservedBy k = false := by
  unfold Record.reservedBy
  split
  · next hk => exact absurd hk (h _ _ _)
  · rfl

theorem Admits.sameReserved {s t : State} (ha : Admits s t) : SameReserved s t := by
  induction ha with
  | refl => exact .refl s
  | outcome n o _ ih => exact ih.trans (.of_store rfl rfl)
  | wait l _ ih => exact ih.trans (.of_store rfl rfl)
  | note i f hf _ ih => exact ih.trans (modifyRecord_sameReserved _ i fun r h => (hf r).reserved h)
  | make n i k delayed repeats hosts esc hk _ hi hc _ ih =>
    refine ih.trans ⟨hc.posts, fun j h => ?_⟩
    rw [created_record? hc]
    split
    · next e => rw [e, hi.1]; exact unposted_reservedBy hk h
    · rfl

theorem postUnit_of_posts {s t : State} (h : t.posts = s.posts) (k : HostId) : t.postUnit k = s.postUnit k := by
  unfold State.postUnit
  rw [h]

theorem SameReserved.count {s t : State} (h : SameReserved s t) (k : HostId) :
    t.countRecords (Record.reservedBy k) = s.countRecords (Record.reservedBy k) :=
  countRecords_congr fun i => h.2 i k

/-- Reservations are the RESERVED records of their poster, receipts and reservations fill at most 8 places, and a host that is not usable
has none (R128, R136). -/
def PostsLegal (s : State) : Prop :=
  s.ReceiptsLegal ∧ ∀ h, s.usable h = false → (s.postUnit h).receipts = [] ∧ (s.postUnit h).reservations = 0

theorem PostsLegal.same {s t : State} (hs : PostsLegal s) (h : SameReserved s t)
    (hu : ∀ k, t.usable k = false → s.usable k = false) : PostsLegal t := by
  refine ⟨fun k => ?_, fun k hk => ?_⟩
  · rw [postUnit_of_posts h.1, h.count]
    exact hs.1 k
  · rw [postUnit_of_posts h.1]
    exact hs.2 k (hu k hk)

theorem PostsLegal.woken {s t : State} (hs : PostsLegal s) (h : SameReserved s t) (hw : OnlyWoken s t) : PostsLegal t :=
  hs.same h fun k hk => by rw [← hw.usable]; exact hk

/-- Closing a RESERVED record gives its poster a receipt in place of the reservation, and the poster is usable. -/
theorem closeRecord_postsLegal {s : State} {i : SlotId} {r : Record} (hr : s.record? i = some r) (hs : PostsLegal s) :
    PostsLegal (s.closeRecord i r) := by
  have hposts : ∀ k, (s.closeRecord i r).postUnit k =
      if r.reservedBy k = true then
        { receipts := (s.postUnit k).receipts ++
            [{ generation := (s.slot i).generation, slot := i, source := r.source, outcome := r.outcome,
               time := s.clock.timebase }]
          reservations := (s.postUnit k).reservations - 1 }
      else s.postUnit k := fun k => by
    rw [closeRecord_eq]
    exact vget_vof _ k
  have hcount : ∀ k, (s.closeRecord i r).countRecords (Record.reservedBy k) + (if r.reservedBy k = true then 1 else 0)
      = s.countRecords (Record.reservedBy k) := fun k => by
    have hc := countRecords_onlySlot (closeRecord_onlySlot s i r) (Record.reservedBy k)
    rw [record?_closeRecord_same, hr] at hc
    simpa using hc
  refine ⟨fun k => ?_, fun k hk => ?_⟩
  · obtain ⟨heq, hle⟩ := hs.1 k
    have hck := hcount k
    rw [hposts]
    by_cases hres : r.reservedBy k = true
    · rw [if_pos hres] at hck ⊢
      simp only [List.length_append, List.length_singleton]
      omega
    · rw [if_neg hres] at hck ⊢
      omega
  · have hk' : s.usable k = false := by
      rw [← (OnlyWoken.of_hosts (closeRecord_hosts s i r)).usable]
      exact hk
    obtain ⟨hrec, hzero⟩ := hs.2 k hk'
    have hres : ¬ r.reservedBy k = true := fun h => by
      have := one_le_countRecords hr h
      rw [← (hs.1 k).1, hzero] at this
      omega
    rw [hposts, if_neg hres]
    exact ⟨hrec, hzero⟩

theorem judge_postsLegal {s : State} (i : SlotId) (hs : PostsLegal s) : PostsLegal (s.judge i) := by
  rcases judge_cases s i with ⟨he, -⟩ | ⟨r, hr, -, ha⟩
  · rw [he]; exact hs
  · exact (closeRecord_postsLegal hr hs).woken (Admits.sameReserved ha) (Admits.onlyWoken ha)

theorem Admits.postsLegal {s t : State} (ha : Admits s t) (hs : PostsLegal s) : PostsLegal t :=
  hs.woken (Admits.sameReserved ha) (Admits.onlyWoken ha)

theorem setCopy_postsLegal {s : State} (i : SlotId) (h : HostId) (c : Copy) (hs : PostsLegal s) : PostsLegal (s.setCopy i h c) :=
  hs.woken (setCopy_sameReserved s i h c) (.of_hosts (setCopy_hosts s i h c))

theorem escalate_postsLegal {s : State} (i : SlotId) (trigger : HostId) (hs : PostsLegal s) : PostsLegal (s.escalate i trigger) :=
  hs.woken (escalate_sameReserved s i trigger) (escalate_onlyWoken s i trigger)

theorem withdrawCopy_hosts (s : State) (i : SlotId) (h : HostId) : (s.withdrawCopy i h).hosts = s.hosts := by
  unfold State.withdrawCopy
  split
  · rfl
  · split
    · exact setCopy_hosts s i h _
    · exact setCopy_hosts s i h _
    · exact setCopy_hosts s i h _
    · exact setCopy_hosts s i h _
    · rfl

theorem foldl_hosts {α : Type} {f : State → α → State} (hf : ∀ s x, (f s x).hosts = s.hosts) (l : List α) (s : State) :
    (l.foldl f s).hosts = s.hosts := by
  induction l generalizing s with
  | nil => rfl
  | cons x xs ih => rw [List.foldl_cons, ih, hf]

theorem withdraw_hosts (s : State) (i : SlotId) : (s.withdraw i).hosts = s.hosts :=
  foldl_hosts (fun t h => withdrawCopy_hosts t i h) _ s

theorem markPurged_hosts (s : State) (i : SlotId) : (s.markPurged i).hosts = s.hosts := modifyRecord_hosts s i _

theorem endStale_hosts (s : State) (i : SlotId) (h : HostId) : (s.endStale i h).hosts = s.hosts := by
  unfold State.endStale
  split
  · rfl
  · split
    · exact setCopy_hosts s i h _
    · rfl

theorem withdraw_postsLegal {s : State} (i : SlotId) (hs : PostsLegal s) : PostsLegal (s.withdraw i) :=
  hs.woken (withdraw_sameReserved s i) (.of_hosts (withdraw_hosts s i))

theorem markPurged_postsLegal {s : State} (i : SlotId) (hs : PostsLegal s) : PostsLegal (s.markPurged i) :=
  hs.woken (markPurged_sameReserved s i) (.of_hosts (markPurged_hosts s i))

/-! ## Cleanup -/

theorem voidFor_reservedBy (r : Record) (h k : HostId) :
    (r.voidFor h).reservedBy k = if k = h then false else r.reservedBy k := by
  unfold Record.voidFor
  split
  · next payload poster hk =>
    by_cases hp : poster = h
    · subst hp
      rw [if_pos rfl]
      unfold Record.reservedBy
      rw [hk]
      by_cases hkp : k = poster
      · simp [hkp]
      · simp [hkp, Ne.symm hkp]
    · rw [if_neg hp]
      split
      · next e => subst e; simp [Record.reservedBy, hk, hp]
      · rfl
  · next hno =>
    split
    · next e =>
      unfold Record.reservedBy
      split
      · next hk => exact absurd hk (hno _ _)
      · rfl
    · rfl

/-- The records after the voiding of `h`'s reservations. -/
theorem record?_foldl_voidFor (h : HostId) (l : List SlotId) (hl : l.Nodup) (s : State) (i : SlotId) :
    (l.foldl (fun t j => t.modifyRecord j (fun r => r.voidFor h)) s).record? i
      = if i ∈ l then (s.record? i).map (fun r => r.voidFor h) else s.record? i := by
  induction l generalizing s with
  | nil => simp
  | cons j js ih =>
    obtain ⟨hj, hjs⟩ := List.nodup_cons.mp hl
    rw [List.foldl_cons, ih hjs, record?_modifyRecord]
    by_cases hij : i = j
    · subst hij; simp [hj]
    · simp [hij]

theorem record?_voidReservations (s : State) (h : HostId) (i : SlotId) :
    (s.voidReservations h).record? i = (s.record? i).map (fun r => r.voidFor h) := by
  have hvoid := record?_foldl_voidFor h allSlots (List.nodup_finRange 48) s i
  rw [if_pos (mem_allSlots i)] at hvoid
  unfold State.voidReservations
  generalize allSlots.foldl _ s = t at hvoid
  exact hvoid

theorem foldl_modifyRecord_posts (f : Record → Record) (l : List SlotId) (s : State) :
    (l.foldl (fun t j => t.modifyRecord j f) s).posts = s.posts := by
  induction l generalizing s with
  | nil => rfl
  | cons j js ih => rw [List.foldl_cons, ih, modifyRecord_posts]

theorem postUnit_voidReservations (s : State) (h k : HostId) :
    (s.voidReservations h).postUnit k = if k = h then { receipts := [], reservations := 0 } else s.postUnit k := by
  have hposts := foldl_modifyRecord_posts (fun r => r.voidFor h) allSlots s
  unfold State.voidReservations
  generalize allSlots.foldl _ s = t at hposts
  rw [postUnit_setPostUnit, postUnit_of_posts hposts]

/-- After the voiding the host has no receipt and no reservation, and no record is its RESERVED one (R136). -/
theorem voidReservations_postsLegal {s : State} (h : HostId) (hs : s.ReceiptsLegal)
    (hclear : ∀ k, k ≠ h → s.usable k = false → (s.postUnit k).receipts = [] ∧ (s.postUnit k).reservations = 0) :
    PostsLegal (s.voidReservations h) := by
  have hcount : ∀ k, (s.voidReservations h).countRecords (Record.reservedBy k)
      = if k = h then 0 else s.countRecords (Record.reservedBy k) := fun k => by
    split
    · next e =>
      refine countRecords_eq_zero fun i r hr => ?_
      rw [record?_voidReservations] at hr
      obtain ⟨r0, -, rfl⟩ := Option.map_eq_some_iff.mp hr
      rw [voidFor_reservedBy, if_pos e]
    · next e =>
      refine countRecords_congr fun i => ?_
      rw [record?_voidReservations]
      cases s.record? i with
      | none => rfl
      | some r => exact (voidFor_reservedBy r h k).trans (if_neg e)
  refine ⟨fun k => ?_, fun k hk => ?_⟩
  · rw [hcount, postUnit_voidReservations]
    split
    · exact ⟨rfl, by simp⟩
    · exact hs k
  · rw [postUnit_voidReservations]
    split
    · exact ⟨rfl, rfl⟩
    · next e =>
      rw [(OnlyWoken.of_hosts (voidReservations_hosts s h)).usable] at hk
      exact hclear k e hk

theorem cleanupCopy_postsLegal {s : State} (h : HostId) (i : SlotId) (hs : PostsLegal s) : PostsLegal (s.cleanupCopy h i) := by
  unfold State.cleanupCopy
  split
  · exact hs
  · split_ifs
    · exact hs
    · exact judge_postsLegal i (setCopy_postsLegal i h _ hs)
    · exact judge_postsLegal i (escalate_postsLegal i h (setCopy_postsLegal i h _ hs))

theorem clearDelivery_postsLegal {s : State} (h : HostId) (hs : PostsLegal s) : PostsLegal (s.clearDelivery h) :=
  hs.same (.of_store rfl rfl) fun _ hk => hk

theorem cleanup_postsLegal {s : State} (h : HostId) (hs : s.ReceiptsLegal)
    (hclear : ∀ k, k ≠ h → s.usable k = false → (s.postUnit k).receipts = [] ∧ (s.postUnit k).reservations = 0) :
    PostsLegal (s.cleanup h) := by
  unfold State.cleanup
  exact clearDelivery_postsLegal h (foldl_keeps (P := PostsLegal) (fun _ i ht => cleanupCopy_postsLegal h i ht) _
    (voidReservations_postsLegal h hs hclear))

theorem foldl_cleanupCopy_onlyWoken (h : HostId) (l : List SlotId) (s : State) :
    OnlyWoken s (l.foldl (fun t i => t.cleanupCopy h i) s) := by
  induction l generalizing s with
  | nil => exact .refl s
  | cons j js ih => exact (cleanupCopy_onlyWoken s h j).trans (ih _)

theorem cleanup_onlyWoken (s : State) (h : HostId) : OnlyWoken s (s.cleanup h) := by
  have hcopies := foldl_cleanupCopy_onlyWoken h allSlots (s.voidReservations h)
  unfold State.cleanup
  generalize allSlots.foldl _ (s.voidReservations h) = t at hcopies
  exact ((OnlyWoken.of_hosts (voidReservations_hosts s h)).trans hcopies).trans
    (.of_hosts (clearDelivery_hosts t h))

/-! ## The parts of hosts that are not usable -/

/-- Where host `k` had no part in a record it has none. -/
def KeepsNoPart (k : HostId) (s t : State) : Prop := ∀ i, NoPart s k i → NoPart t k i

theorem KeepsNoPart.refl (k : HostId) (s : State) : KeepsNoPart k s s := fun _ h => h

theorem KeepsNoPart.trans {k : HostId} {s t u : State} (h : KeepsNoPart k s t) (h' : KeepsNoPart k t u) : KeepsNoPart k s u :=
  fun i hi => h' i (h i hi)

theorem KeepsNoPart.of_alike {k : HostId} {s t : State} (h : ∀ i, Alike k i s t) : KeepsNoPart k s t :=
  fun i hi => noPart_alike (h i) hi

theorem KeepsNoPart.of_store {s t : State} (h : t.store = s.store) (k : HostId) : KeepsNoPart k s t :=
  .of_alike fun i => .of_store h k i

/-- A write to a copy that was not terminal, or that ends it, gives no part to a host that had none. -/
theorem setCopy_keepsNoPart {s : State} {i : SlotId} {h k : HostId} {c d : Copy} (hc : s.copy? i h = some c)
    (hd : c.state.terminal = false ∨ d.state.terminal = true) : KeepsNoPart k s (s.setCopy i h d) := by
  intro j hj
  by_cases hne : j ≠ i ∨ k ≠ h
  · exact noPart_alike (setCopy_alike s i j h k d hne) hj
  · push Not at hne
    obtain ⟨rfl, rfl⟩ := hne
    rcases hd with hd | hd
    · exact absurd (noPart_iff.mp hj c hc) (by simp [hd])
    · exact noPart_setCopy hc hd

theorem withdrawCopy_keepsNoPart (s : State) (i : SlotId) (h k : HostId) : KeepsNoPart k s (s.withdrawCopy i h) := by
  unfold State.withdrawCopy
  split
  · exact .refl k s
  · next c hc =>
    split
    · exact (setCopy_keepsNoPart (d := c.ended .withdrawn) hc (.inr rfl)).trans (.of_store rfl k)
    · exact (setCopy_keepsNoPart (d := c.ended .withdrawn) hc (.inr rfl)).trans (.of_store rfl k)
    · next hx => exact setCopy_keepsNoPart hc (.inl (by rw [hx]; rfl))
    · next hx => exact setCopy_keepsNoPart hc (.inl (by rw [hx]; rfl))
    · exact .refl k s

theorem withdraw_keepsNoPart (s : State) (i : SlotId) (k : HostId) : KeepsNoPart k s (s.withdraw i) :=
  foldl_keeps (P := fun t => KeepsNoPart k s t) (fun t h ht => ht.trans (withdrawCopy_keepsNoPart t i h k)) _ (.refl k s)

theorem escalate_keepsNoPart {s : State} (i : SlotId) (trigger : HostId) {k : HostId} (hu : s.usable k = false) :
    KeepsNoPart k s (s.escalate i trigger) := by
  intro j hj
  by_cases hji : j = i
  · subst hji
    rcases escalate_cases s j trigger with he | ⟨r, f, hr, ⟨-, -, -, huf, -, -⟩, he⟩
    · rw [he]; exact hj
    · have hkf : k ≠ f := fun e => by rw [e, huf] at hu; cases hu
      have hrec : (s.escalate j trigger).record? j = some (s.escalatedRecord r f trigger) := by
        rw [he, record?_of_store (wakeFor_store _ _ _)]
        exact record?_setRecord_same s j _
      have hcopy : (s.escalatedRecord r f trigger).copy k = r.copy k := copy_setCopy_other r f k _ hkf
      exact noPart_alike (.of_live hr hrec rfl (by rw [hcopy]) (by rw [hcopy])) hj
  · exact noPart_alike (.of_record ((escalate_onlySlot s i trigger).record? hji)) hj

theorem modifyRecord_keepsNoPart (s : State) (i : SlotId) {f : Record → Record} (hf : ∀ r, (f r).copies = r.copies) (k : HostId) :
    KeepsNoPart k s (s.modifyRecord i f) := by
  intro j hj
  have hcopy : (s.modifyRecord i f).copy? j k = s.copy? j k := by
    unfold State.copy?
    rw [record?_modifyRecord]
    by_cases e : j = i
    · subst e
      cases s.record? j <;> simp [Record.copy, hf]
    · rw [if_neg e]
  exact noPart_iff.mpr fun c hc => noPart_iff.mp hj c (hcopy ▸ hc)

theorem mapCopies_keepsNoPart (s : State) (h : HostId) {f : Copy → Copy}
    (hf : ∀ c, (f c).offered = c.offered ∧ (f c).inService = c.inService) (k : HostId) : KeepsNoPart k s (s.mapCopies h f) := by
  refine .of_alike fun i => .of_map (record?_mapCopies s h f i) (fun r => modifyCopy_priority r h f) (fun r => ?_) (fun r => ?_)
  all_goals
    rw [copy_modifyCopy]
    split
    · next e => subst e; cases r.copy k <;> simp [hf]
    · rfl

theorem millisecond_keepsNoPart (s : State) (k : HostId) : KeepsNoPart k s s.millisecond := by
  refine .of_alike fun i => .of_map (record?_millisecond s i) (fun _ => rfl) (fun r => ?_) (fun r => ?_)
  all_goals
    rw [copy_tick]
    cases r.copy k with
    | none => rfl
    | some c =>
      have hst := standing_of_state (tick_state c)
      simp [hst.1, hst.2]

theorem takeHead_keepsNoPart {s : State} {p : HostId} {i : SlotId} (hh : s.head? p = some i) (k : HostId) :
    KeepsNoPart k s (s.takeHead p i) := by
  intro j hj
  by_cases hji : j = i
  · subst hji
    have hkp : k ≠ p := fun e => by
      subst e
      have := isPending_offered (head?_isPending hh).2
      rw [hj.1] at this
      cases this
    refine noPart_alike (.of_map (f := takenRecord p) (by rw [record?_takeHead, if_pos rfl]) (takenRecord_priority p)
      (fun r => ?_) (fun r => ?_)) hj <;> rw [takenRecord_copy, if_neg hkp]
  · exact noPart_alike (.of_record (by rw [record?_takeHead, if_neg hji])) hj

theorem created_keepsNoPart {s t : State} {n : SourceId} {i : SlotId} {x : Particulars} {delayed : Bool} {repeats : Nat}
    {hosts : List HostId} {esc : Bool} (hc : Created s t i (madeRecord s n x delayed repeats hosts esc) hosts)
    {k : HostId} (hk : k ∉ hosts) : KeepsNoPart k s t := by
  intro j hj
  by_cases hji : j = i
  · subst hji
    refine noPart_iff.mpr fun c hcp => ?_
    rw [copy?_of_record (r := madeRecord s n x delayed repeats hosts esc) (by rw [created_record? hc, if_pos rfl]),
      copy_madeRecord, if_neg hk] at hcp
    cases hcp
  · exact noPart_alike (.of_record (by rw [created_record? hc, if_neg hji])) hj

theorem judge_keepsNoPart {s : State} (i : SlotId) {k : HostId} (hu : s.usable k = false) : KeepsNoPart k s (s.judge i) :=
  fun _ hj => judge_noPart hu hj

theorem admits_keepsNoPart {s t : State} (ha : Admits s t) {k : HostId} (hu : s.usable k = false) : KeepsNoPart k s t :=
  fun _ hj => Admits.noPart ha hu hj

theorem cleanupCopy_keepsNoPart {s : State} (h : HostId) (i : SlotId) {k : HostId} (hu : s.usable k = false) :
    KeepsNoPart k s (s.cleanupCopy h i) := by
  unfold State.cleanupCopy
  split
  · exact .refl k s
  · next c hc =>
    split_ifs with ht hst
    · exact .refl k s
    · exact (setCopy_keepsNoPart (d := c.ended .withdrawn) hc (.inr rfl)).trans
        (judge_keepsNoPart i (by rw [usable_setCopy]; exact hu))
    · have hu' : (s.setCopy i h (c.ended .expired)).usable k = false := by rw [usable_setCopy]; exact hu
      refine ((setCopy_keepsNoPart (d := c.ended .expired) hc (.inr rfl)).trans (escalate_keepsNoPart i h hu')).trans
        (judge_keepsNoPart i ?_)
      rw [(escalate_onlyWoken _ i h).usable]
      exact hu'

theorem foldl_cleanupCopy_keepsNoPart (h : HostId) (l : List SlotId) {k : HostId} {s : State} (hu : s.usable k = false) :
    KeepsNoPart k s (l.foldl (fun t i => t.cleanupCopy h i) s) := by
  induction l generalizing s with
  | nil => exact .refl k s
  | cons j js ih =>
    exact (cleanupCopy_keepsNoPart h j hu).trans (ih (by rw [(cleanupCopy_onlyWoken s h j).usable]; exact hu))

theorem voidReservations_keepsNoPart (s : State) (h k : HostId) : KeepsNoPart k s (s.voidReservations h) :=
  .of_alike fun i => .of_map (record?_voidReservations s h i) (fun r => voidFor_priority r h)
    (fun r => by rw [voidFor_copy]) (fun r => by rw [voidFor_copy])

/-- A host that is not usable has no part in any record (R140). -/
def PartsClear (s : State) : Prop := ∀ k, s.usable k = false → ∀ i, NoPart s k i

theorem PartsClear.keep {s t : State} (hs : PartsClear s) (hu : ∀ k, t.usable k = false → s.usable k = false)
    (ht : ∀ k, t.usable k = false → KeepsNoPart k s t) : PartsClear t := fun k hk i => ht k hk i (hs k (hu k hk) i)

theorem PartsClear.woken {s t : State} (hs : PartsClear s) (hw : OnlyWoken s t)
    (ht : ∀ k, s.usable k = false → KeepsNoPart k s t) : PartsClear t :=
  hs.keep (fun k hk => by rw [← hw.usable]; exact hk) fun k hk => ht k (by rw [← hw.usable]; exact hk)

theorem cleanup_partsClear {s : State} {h : HostId} (hu : s.usable h = false)
    (hs : ∀ k, k ≠ h → s.usable k = false → ∀ i, NoPart s k i) : PartsClear (s.cleanup h) := by
  intro k hk i
  rw [(cleanup_onlyWoken s h).usable] at hk
  by_cases hkh : k = h
  · subst hkh; exact cleanup_noPart hu i
  · have hv : (s.voidReservations h).usable k = false := by
      rw [(OnlyWoken.of_hosts (voidReservations_hosts s h)).usable]
      exact hk
    unfold State.cleanup
    exact clearDelivery_noPart (foldl_cleanupCopy_keepsNoPart h allSlots hv i
      (voidReservations_keepsNoPart s h k i (hs k hkh hk i)))

/-! ## The three together -/

/-- Timers, reservations and parts together. -/
def HostsLegal (s : State) : Prop := TimersLegal s ∧ PostsLegal s ∧ PartsClear s

theorem hostsLegal_iff {s : State} : HostsLegal s ↔ s.ReceiptsLegal ∧ s.AbsentHostsClear := by
  constructor
  · rintro ⟨ht, ⟨hr, hc⟩, hp⟩
    exact ⟨hr, fun h => ⟨ht h, fun hu => ⟨(hc h hu).1, (hc h hu).2, hp h hu⟩⟩⟩
  · rintro ⟨hr, ha⟩
    exact ⟨fun h => (ha h).1, ⟨hr, fun h hu => ⟨((ha h).2 hu).1, ((ha h).2 hu).2.1⟩⟩, fun h hu => ((ha h).2 hu).2.2⟩

theorem HostsLegal.woken {s t : State} (hs : HostsLegal s) (hw : OnlyWoken s t) (hr : SameReserved s t)
    (hp : ∀ k, s.usable k = false → KeepsNoPart k s t) : HostsLegal t :=
  ⟨hs.1.woken hw, hs.2.1.woken hr hw, hs.2.2.woken hw hp⟩

theorem Admits.hostsLegal {s t : State} (ha : Admits s t) (hs : HostsLegal s) : HostsLegal t :=
  hs.woken (Admits.onlyWoken ha) (Admits.sameReserved ha) fun _ hu => admits_keepsNoPart ha hu

theorem judge_hostsLegal {s : State} (i : SlotId) (hs : HostsLegal s) : HostsLegal (s.judge i) :=
  ⟨hs.1.woken (judge_onlyWoken s i), judge_postsLegal i hs.2.1, hs.2.2.woken (judge_onlyWoken s i) fun _ hu => judge_keepsNoPart i hu⟩

theorem HostsLegal.of_same {s t : State} (hs : HostsLegal s) (hst : t.store = s.store) (hh : t.hosts = s.hosts)
    (hp : t.posts = s.posts) : HostsLegal t :=
  hs.woken (.of_hosts hh) (.of_store hp hst) fun k _ => .of_store hst k

theorem setCopy_hostsLegal {s : State} {i : SlotId} {h : HostId} {c d : Copy} (hc : s.copy? i h = some c)
    (hd : c.state.terminal = false ∨ d.state.terminal = true) (hs : HostsLegal s) : HostsLegal (s.setCopy i h d) :=
  hs.woken (.of_hosts (setCopy_hosts s i h d)) (setCopy_sameReserved s i h d) fun _ _ => setCopy_keepsNoPart hc hd

theorem withdraw_hostsLegal {s : State} (i : SlotId) (hs : HostsLegal s) : HostsLegal (s.withdraw i) :=
  hs.woken (.of_hosts (withdraw_hosts s i)) (withdraw_sameReserved s i) fun k _ => withdraw_keepsNoPart s i k

theorem escalate_hostsLegal {s : State} (i : SlotId) (trigger : HostId) (hs : HostsLegal s) : HostsLegal (s.escalate i trigger) :=
  hs.woken (escalate_onlyWoken s i trigger) (escalate_sameReserved s i trigger) fun _ hu => escalate_keepsNoPart i trigger hu

theorem markPurged_hostsLegal {s : State} (i : SlotId) (hs : HostsLegal s) : HostsLegal (s.markPurged i) :=
  hs.woken (.of_hosts (markPurged_hosts s i)) (markPurged_sameReserved s i)
    fun k _ => modifyRecord_keepsNoPart s i (f := fun r => { r with purged := true }) (fun _ => rfl) k

theorem satisfy_hostsLegal {s : State} (i : SlotId) (hs : HostsLegal s) : HostsLegal (s.satisfy i) := by
  unfold State.satisfy
  split
  · exact hs
  · split
    · exact withdraw_hostsLegal i hs
    · exact hs

/-- Host `h` taken out of use, its timer none, and cleaned up. -/
theorem cleanup_hostsLegal {s : State} (h : HostId) {x : HostRecord} (hx : x.state.usable = false) (ht : x.wakeTimer = none)
    (hs : HostsLegal s) : HostsLegal ((s.setHost h x).cleanup h) := by
  obtain ⟨htimers, ⟨hreceipts, hclear⟩, hparts⟩ := hs
  have hu : ∀ k, k ≠ h → (s.setHost h x).usable k = s.usable k := fun k hk => by
    unfold State.usable
    rw [host_setHost_other _ _ _ _ hk]
  have htimers' : TimersLegal (s.setHost h x) := htimers.setHost h ht (fun e => by rw [e] at hx; cases hx)
  refine ⟨htimers'.woken (cleanup_onlyWoken _ h), cleanup_postsLegal h hreceipts fun k hk hku => ?_,
    cleanup_partsClear (by rw [usable_setHost_same]; exact hx) fun k hk hku i => ?_⟩
  · exact hclear k (by rw [← hu k hk]; exact hku)
  · exact hparts k (by rw [← hu k hk]; exact hku) i

/-- A session opened for a host: it is usable from then on, and its timer is none. -/
theorem openSession_hostsLegal {s : State} (h : HostId) (grace wake : Nat) (hs : HostsLegal s) :
    HostsLegal (s.openSession h grace wake) := by
  have hu : ∀ k, (s.openSession h grace wake).usable k = false → s.usable k = false := fun k hk => by
    unfold State.openSession State.usable at hk
    rw [host_setDeliv, host_setHost] at hk
    split at hk
    · cases hk
    · exact hk
  refine ⟨?_, hs.2.1.same (.of_store rfl rfl) hu, hs.2.2.keep hu fun k _ => .of_store rfl k⟩
  exact TimersLegal.woken (hs.1.setHost h (x := { s.host h with
    state := .run, graceLimit := grace, wakeLimit := wake, wakeTimer := none }) rfl (by simp)) (.of_hosts rfl)

theorem detachHost_hostsLegal {s : State} {h : HostId} (hw : (s.host h).state ≠ .waking) (hs : HostsLegal s) :
    HostsLegal (s.detachHost h) :=
  cleanup_hostsLegal h rfl (hs.1.none hw) hs

theorem freshAttach_hostsLegal {s : State} {h : HostId} (grace wake : Nat) (hw : (s.host h).state ≠ .waking)
    (hs : HostsLegal s) : HostsLegal (s.freshAttach h grace wake) :=
  openSession_hostsLegal h grace wake (detachHost_hostsLegal hw hs)

theorem loseHost_hostsLegal {s : State} (h : HostId) (hs : HostsLegal s) : HostsLegal (s.loseHost h) := by
  unfold State.loseHost
  refine Admits.hostsLegal (admission_admits _ _) ?_
  exact cleanup_hostsLegal h rfl rfl hs

/-- One host moved between states in which it is usable, its timer none, and its copies parked or unparked. -/
theorem mapCopies_setHost_hostsLegal {s : State} {h : HostId} {x : HostRecord} {f : Copy → Copy}
    (hx : x.state.usable = true) (hw : x.state ≠ .waking) (ht : x.wakeTimer = none)
    (hf : ∀ c, (f c).offered = c.offered ∧ (f c).inService = c.inService) (hs : HostsLegal s) :
    HostsLegal ((s.setHost h x).mapCopies h f) := by
  have hu : ∀ k, (s.setHost h x).usable k = false → s.usable k = false := fun k hk => by
    unfold State.usable at hk ⊢
    rw [host_setHost] at hk
    split at hk
    · rw [hx] at hk; cases hk
    · exact hk
  have hset : HostsLegal (s.setHost h x) :=
    ⟨hs.1.setHost h ht hw, hs.2.1.same (.of_store rfl rfl) hu, hs.2.2.keep hu fun k _ => .of_store rfl k⟩
  exact hset.woken (.of_hosts rfl) (mapCopies_sameReserved _ h f) fun k _ => mapCopies_keepsNoPart _ h hf k

theorem returnToRun_hostsLegal {s : State} (h : HostId) (hs : HostsLegal s) : HostsLegal (s.returnToRun h) := by
  unfold State.returnToRun
  split
  · exact mapCopies_setHost_hostsLegal (x := { s.host h with state := .run, wakeTimer := none }) rfl (by simp) rfl
      unpark_standing hs
  · exact mapCopies_setHost_hostsLegal (x := { s.host h with state := .run, wakeTimer := none }) rfl (by simp) rfl
      unpark_standing hs
  · exact hs

theorem sleepHost_hostsLegal {s : State} {h : HostId} (hw : (s.host h).state ≠ .waking) (hs : HostsLegal s) :
    HostsLegal (s.sleepHost h) :=
  mapCopies_setHost_hostsLegal (x := { s.host h with state := .deep }) rfl (by simp) (hs.1.none hw) park_standing hs

/-! ## Posts, receipts and FLUSHALL -/

theorem created_sameReserved {s t : State} {i : SlotId} {r : Record} {hosts : List HostId} (hc : Created s t i r hosts)
    (hi : LowestFree s i) (hr : ∀ k, r.reservedBy k = false) : SameReserved s t := by
  refine ⟨hc.posts, fun j h => ?_⟩
  rw [created_record? hc]
  split
  · next e => rw [e, hi.1]; exact hr h
  · rfl

/-- A RESERVED record made, and its reservation counted (R130). -/
theorem reserve_postsLegal {s u : State} {i : SlotId} {r : Record} {hosts : List HostId} {p : HostId}
    (hc : Created s u i r hosts) (hi : LowestFree s i) (hr : ∀ k, r.reservedBy k = decide (k = p)) (hu : s.usable p = true)
    (hroom : s.receiptsFull p = false) (hs : PostsLegal s) : PostsLegal (u.reserve p) := by
  have hcount : ∀ k, (u.reserve p).countRecords (Record.reservedBy k)
      = s.countRecords (Record.reservedBy k) + (if k = p then 1 else 0) := fun k => by
    have h := countRecords_onlySlot hc.otherSlots (Record.reservedBy k)
    rw [created_record? hc, if_pos rfl, hi.1] at h
    show u.countRecords _ = _
    simpa [hr k] using h
  have hpost : ∀ k, (u.reserve p).postUnit k =
      if k = p then { s.postUnit p with reservations := (s.postUnit p).reservations + 1 } else s.postUnit k := fun k => by
    unfold State.reserve
    rw [postUnit_setPostUnit, postUnit_of_posts hc.posts, postUnit_of_posts hc.posts]
  have hlt : (s.postUnit p).receipts.length + (s.postUnit p).reservations < 8 := by
    unfold State.receiptsFull at hroom
    exact Nat.lt_of_not_le (of_decide_eq_false hroom)
  refine ⟨fun k => ?_, fun k hk => ?_⟩
  · obtain ⟨heq, hle⟩ := hs.1 k
    rw [hcount, hpost]
    split
    · next e =>
      subst e
      dsimp only
      omega
    · exact ⟨heq, hle⟩
  · have hk' : s.usable k = false := by
      rw [← (created_onlyWoken hc).usable]
      exact hk
    have hne : k ≠ p := fun e => by rw [e, hu] at hk'; cases hk'
    rw [hpost, if_neg hne]
    exact hs.2 k hk'

theorem createPost_hostsLegal {s : State} {p : HostId} {n : SourceId} {i : SlotId} (payload : BitVec 16) (receipt : Bool)
    {hosts : List HostId} {esc : Bool} (hu : s.usable p = true) (hroom : receipt = true → s.receiptsFull p = false)
    (hr : Recipients s (s.route n).config hosts esc) (hi : LowestFree s i) (hs : HostsLegal s) :
    HostsLegal (s.createPost p n i payload receipt hosts esc) := by
  obtain ⟨u, hc, he⟩ := createPost_cases s (p := p) (i := i) payload receipt hr
  rw [he]
  have hparts : ∀ k, s.usable k = false → KeepsNoPart k s u := fun k hk =>
    created_keepsNoPart hc fun hm => by rw [hr.usable k hm] at hk; cases hk
  cases receipt with
  | false =>
    exact hs.woken (created_onlyWoken hc)
      (created_sameReserved hc hi fun k => by simp [Record.reservedBy, madeRecord]) hparts
  | true =>
    rw [if_pos rfl]
    have hw : OnlyWoken s (u.reserve p) := fun k => created_onlyWoken hc k
    refine ⟨hs.1.woken hw, ?_, hs.2.2.woken hw hparts⟩
    refine reserve_postsLegal hc hi (fun k => ?_) hu (hroom rfl) hs.2.1
    simp only [Record.reservedBy, madeRecord, if_pos]
    exact decide_eq_decide.mpr eq_comm

theorem takeReceipt_postsLegal {s : State} {p : HostId} {x : Receipt} {later : List Receipt} (hu : s.usable p = true)
    (hx : (s.postUnit p).receipts = x :: later) (hs : PostsLegal s) :
    PostsLegal (s.setPostUnit p { s.postUnit p with receipts := later }) := by
  refine ⟨fun k => ?_, fun k hk => ?_⟩
  · obtain ⟨heq, hle⟩ := hs.1 k
    rw [postUnit_setPostUnit]
    split
    · next e =>
      subst e
      rw [hx, List.length_cons] at hle
      exact ⟨heq, by dsimp only; omega⟩
    · exact ⟨heq, hle⟩
  · have hku : s.usable k = false := hk
    have hne : k ≠ p := fun e => by rw [e, hu] at hku; cases hku
    rw [postUnit_setPostUnit, if_neg hne]
    exact hs.2 k hku

/-- Up to its closing, FLUSHALL's end of a record touches no host and no reservation. -/
theorem flushRecord_postsLegal {s : State} (i : SlotId) (hs : PostsLegal s) : PostsLegal (s.flushRecord i) := by
  obtain ⟨t, -, ht, hcases⟩ := flushRecord_cases s i
  have hres : SameReserved s t := by
    rw [ht]
    exact ((markPurged_sameReserved s i).trans (withdraw_sameReserved _ i)).trans
      (.foldl _ (fun u h => endStale_sameReserved u i h) _ _)
  have hhosts : t.hosts = s.hosts := by
    rw [ht, foldl_hosts (fun u h => endStale_hosts u i h), withdraw_hosts, markPurged_hosts]
  have hopen : PostsLegal t := hs.woken hres (.of_hosts hhosts)
  rcases hcases with ⟨he, -⟩ | ⟨r, hr, -, he⟩
  · rw [he]; exact hopen
  · rw [he]; exact closeRecord_postsLegal hr hopen

theorem flushRecord_hosts (s : State) (i : SlotId) : (s.flushRecord i).hosts = s.hosts := by
  obtain ⟨t, -, ht, hcases⟩ := flushRecord_cases s i
  have hhosts : t.hosts = s.hosts := by
    rw [ht, foldl_hosts (fun u h => endStale_hosts u i h), withdraw_hosts, markPurged_hosts]
  rcases hcases with ⟨he, -⟩ | ⟨r, -, -, he⟩
  · rw [he, hhosts]
  · rw [he, closeRecord_hosts, hhosts]

theorem flushStores_hosts (s : State) : s.flushStores.hosts = s.hosts := by
  unfold State.flushStores
  rw [foldl_hosts (f := State.clearDelivery) fun _ _ => rfl, foldl_hosts (f := State.flushRecord) flushRecord_hosts]

theorem flushStores_postsLegal {s : State} (hs : PostsLegal s) : PostsLegal s.flushStores := by
  unfold State.flushStores
  refine foldl_keeps (P := PostsLegal) (f := State.clearDelivery) (fun _ h ht => clearDelivery_postsLegal h ht) _ ?_
  exact foldl_keeps (P := PostsLegal) (fun _ i ht => flushRecord_postsLegal i ht) _ (hs.same (.of_store rfl rfl) fun _ h => h)

theorem flushAll_hostsLegal {s : State} (hs : HostsLegal s) : HostsLegal s.flushAll := by
  have hstores : HostsLegal s.flushStores :=
    ⟨hs.1.woken (.of_hosts (flushStores_hosts s)), flushStores_postsLegal hs.2.1,
      fun k _ i => noPart_of_free (record?_flushStores s i) k⟩
  exact foldl_keeps (P := HostsLegal) (fun t n ht => Admits.hostsLegal (flushRearm_admits t n) ht) _ hstores

/-! ## The events -/

theorem purgeRecord_hostsLegal {s : State} (i : SlotId) (hs : HostsLegal s) : HostsLegal (s.purgeRecord i) :=
  judge_hostsLegal i (withdraw_hostsLegal i (markPurged_hostsLegal i hs))

theorem hostsLegal_rule {s t : State} {p : HostId} (ha : Awake s p) (hs : HostsLegal s) (h : RuleEffect s p t) :
    HostsLegal t := by
  cases h with
  | nothing => exact hs
  | openSession grace wake => exact openSession_hostsLegal p grace wake hs
  | reopenSession grace wake => exact Admits.hostsLegal (admission_admits _ _) (openSession_hostsLegal p grace wake hs)
  | freshSession grace wake => exact freshAttach_hostsLegal grace wake ha.2 hs
  | detach => exact detachHost_hostsLegal ha.2 hs
  | sleep => exact sleepHost_hostsLegal ha.2 hs
  | level => exact hs.of_same rfl rfl rfl
  | take i _ _ hh =>
    have hhosts : (s.takeHead p i).hosts = s.hosts := by
      unfold State.takeHead
      rw [modifyRecord_hosts, pushStack_hosts]
    exact hs.woken (.of_hosts hhosts) (takeHead_sameReserved s p i) fun k _ => takeHead_keepsNoPart hh k
  | ackTaken i c _ hc =>
    exact judge_hostsLegal i (satisfy_hostsLegal i
      ((setCopy_hostsLegal (d := c.ended .acked) hc (.inr rfl) hs).of_same (t := State.popStack _ p) rfl rfl rfl))
  | ackOverdue i c _ hc =>
    exact judge_hostsLegal i
      ((escalate_hostsLegal i p (setCopy_hostsLegal (d := c.ended .expired) hc (.inr rfl) hs)).of_same
        (t := State.popStack _ p) rfl rfl rfl)
  | ackStale i c _ hc =>
    exact judge_hostsLegal i
      ((setCopy_hostsLegal (d := c.ended .withdrawn) hc (.inr rfl) hs).of_same (t := State.popStack _ p) rfl rfl rfl)
  | noTarget => exact hs.of_same rfl rfl rfl
  | post n i payload receipt hosts esc hu _ _ hroom hr hi =>
    exact createPost_hostsLegal payload receipt hu hroom hr (allocate?_lowestFree hi) hs
  | receipt x later hu hx =>
    exact ⟨hs.1.woken (.of_hosts rfl), takeReceipt_postsLegal hu hx hs.2.1,
      hs.2.2.woken (.of_hosts rfl) fun k _ => .of_store rfl k⟩
  | routeWrite n c =>
    exact Admits.hostsLegal (writeRoute_admits s n c) (hs.of_same rfl rfl rfl)
  | purge n =>
    unfold State.purgeSource
    exact foldl_keeps (P := HostsLegal) (fun _ i ht => purgeRecord_hostsLegal i ht) _
      (hs.of_same (t := s.dropWaiting n) rfl rfl rfl)
  | lineWrite => exact hs.of_same rfl rfl rfl
  | flushAll => exact flushAll_hostsLegal hs
  | restore => exact hs.of_same rfl rfl rfl

theorem deadlineExpiry_hostsLegal {s : State} (i : SlotId) (h : HostId) (hs : HostsLegal s) :
    HostsLegal (s.deadlineExpiry i h) := by
  unfold State.deadlineExpiry
  split
  · exact hs
  · next c hc =>
    split_ifs with hdue hx
    · exact judge_hostsLegal i (escalate_hostsLegal i h
        ((setCopy_hostsLegal (d := c.ended .expired) hc (.inr rfl) hs).of_same (t := State.dequeue _ h i) rfl rfl rfl))
    · have hx' := (deadlineDue_cases hdue).2.resolve_left hx
      exact escalate_hostsLegal i h (setCopy_hostsLegal hc (.inl (by rw [hx']; rfl)) hs)
    · exact hs

theorem driveLines_hostsLegal {s : State} (hs : HostsLegal s) : HostsLegal s.driveLines := by
  have hu : ∀ k, s.driveLines.usable k = s.usable k := fun k => by
    unfold State.usable
    rw [host_driveLines]
  refine ⟨fun k => by rw [host_driveLines]; exact hs.1 k, hs.2.1.same (.of_store rfl rfl) fun k hk => ?_,
    hs.2.2.keep (fun k hk => ?_) fun k _ => .of_store rfl k⟩
  · rw [← hu]; exact hk
  · rw [← hu]; exact hk

theorem tick_host_state (x : HostRecord) : x.tick.state = x.state := by
  unfold HostRecord.tick
  split <;> rfl

theorem host_millisecond (s : State) (k : HostId) : s.millisecond.host k = (s.host k).tick := vget_vof _ k

theorem millisecond_hostsLegal {s : State} (hs : HostsLegal s) : HostsLegal s.millisecond := by
  have hu : ∀ k, s.millisecond.usable k = s.usable k := fun k => by
    unfold State.usable
    rw [host_millisecond, tick_host_state]
  refine ⟨fun k => ?_, hs.2.1.same (millisecond_sameReserved s) fun k hk => ?_,
    hs.2.2.keep (fun k hk => ?_) fun k _ => millisecond_keepsNoPart s k⟩
  · rw [host_millisecond, tick_host_state, ← hs.1 k]
    unfold HostRecord.tick
    split <;> simp
  · rw [← hu]; exact hk
  · rw [← hu]; exact hk

theorem lossDetected_hostsLegal {s : State} (hs : HostsLegal s) : HostsLegal s.lossDetected := by
  unfold State.lossDetected
  split_ifs
  · exact Admits.hostsLegal (admission_admits _ _) (hs.of_same rfl rfl rfl)
  · exact hs.of_same rfl rfl rfl
  · exact hs

theorem resetWith_hostsLegal (adm : HostId) : HostsLegal (State.resetWith adm) := by
  have hh : ∀ k, (State.resetWith adm).host k = HostRecord.atReset := fun k => vget_replicate _ k
  have hp : ∀ k, (State.resetWith adm).postUnit k = { receipts := [], reservations := 0 } := fun k => vget_replicate _ k
  have hfree : ∀ i, (State.resetWith adm).record? i = none := fun i => congrArg Slot.record (vget_replicate _ i)
  refine ⟨fun k => by rw [hh]; simp [HostRecord.atReset], ⟨fun k => ?_, fun k _ => by rw [hp]; exact ⟨rfl, rfl⟩⟩,
    fun k _ i => noPart_of_free (hfree i) k⟩
  rw [hp, countRecords_eq_zero fun i r hr => by rw [hfree] at hr; cases hr]
  exact ⟨rfl, by simp⟩

theorem deviceReset_hostsLegal (s : State) (pins : ResetPins) : HostsLegal (s.deviceReset pins) :=
  (resetWith_hostsLegal pins.straps).of_same rfl rfl rfl

theorem hostsLegal_keptByEvents : KeptByEvents HostsLegal where
  reset s pins _ := deviceReset_hostsLegal s pins
  queue _ _ hs := hs.of_same rfl rfl rfl
  port _ _ _ hs := hs.of_same rfl rfl rfl
  drive _ hs := driveLines_hostsLegal hs
  awake _ p hs := returnToRun_hostsLegal p hs
  rule _ _ _ ha hs h := hostsLegal_rule ha hs h
  millisecond _ hs := millisecond_hostsLegal hs
  sample _ _ levels order hs :=
    sampleAll_keeps (P := HostsLegal) levels order
      (fun u n b hu _ => Admits.hostsLegal (sampleLine_admits u n b) (hu.of_same rfl rfl rfl)) (hs.of_same rfl rfl rfl)
  deadline _ i h hs := deadlineExpiry_hostsLegal i h hs
  loss _ h hs := loseHost_hostsLegal h hs
  refLost _ hs := lossDetected_hostsLegal hs
  risingEdge _ hs := hs.of_same rfl rfl rfl
  stable _ hs := hs.of_same rfl rfl rfl
  cycle _ hs := hs.of_same rfl rfl rfl

/-- Settles O59: each kind of event keeps timers, reservations and the parts of absent hosts together. -/
theorem hostsAndReceiptsStayLegal : Obligations.HostsAndReceiptsStayLegal :=
  fun _ _ hr ha h => hostsLegal_iff.mp (hostsLegal_keptByEvents.step (hostsLegal_iff.mpr ⟨hr, ha⟩) h)

end Sys2Proof.Proofs.HostsAndReceipts
end

section
/-! PROOFS. Frames and field encodings (11.4, 11.5): the frames that a request is judged valid for (R166, R167), and the fields that the
bytes of a ROUTE_READ or LINE_READ answer carry (Tables 11-5 to 11-7). -/

namespace Sys2Proof.Proofs.Encodings

open Sys2Proof Sys2Proof.Machine Sys2Proof.Proofs.RouteTable Sys2Proof.Proofs.EventLines

/-! ## The command index -/

/-- The index names each command by one code (Table 11-8). -/
theorem cmdOf_eq_some {b : Byte} {c : Cmd} : cmdOf b = some c ↔ b = cmdCode c := by
  constructor
  · intro h
    unfold cmdOf at h
    split at h <;> cases h <;> exact BitVec.eq_of_toNat_eq ‹_›
  · rintro rfl
    cases c <;> rfl

/-! ## The judgement of a request -/

/-- The bytes after the length byte of an intact frame are the body and the CRC (R166, R167). -/
theorem frameIntact_iff_append {code len : Byte} {rest : List Byte} :
    frameIntact code len rest = true ↔
      len.toNat ≤ 24 ∧ ∃ body, rest = body ++ [crc8 (code :: len :: body)] ∧ body.length = len.toNat := by
  unfold frameIntact
  simp only [Bool.and_eq_true, decide_eq_true_eq, beq_iff_eq, List.getLast?_eq_some_iff, and_assoc]
  refine and_congr_right fun _ => ⟨?_, ?_⟩
  · rintro ⟨hlen, body, hrest⟩
    have hdrop : rest.dropLast = body := by rw [hrest]; exact List.dropLast_concat
    rw [hdrop] at hrest
    refine ⟨body, hrest, ?_⟩
    rw [hrest, List.length_append, List.length_singleton] at hlen
    omega
  · rintro ⟨body, hrest, hlen⟩
    have hdrop : rest.dropLast = body := by rw [hrest]; exact List.dropLast_concat
    exact ⟨by rw [hrest, List.length_append, List.length_singleton, hlen], body, by rw [hdrop]; exact hrest⟩

theorem length_byte {body : List Byte} {len : Byte} (h : body.length = len.toNat) : byte body.length = len := by
  rw [h]
  simp [byte]

theorem toNat_byte {n : Nat} (h : n < 256) : (byte n).toNat = n := by
  simpa [byte] using h

/-- Settles O1: an intact frame with a code of the index is the frame of that command and of the bytes between. -/
theorem validFramesAreRequestFrames : Obligations.ValidFramesAreRequestFrames := by
  intro bytes c body
  constructor
  · intro h
    match bytes, h with
    | [], h => cases h
    | [_], h => cases h
    | code :: len :: rest, h =>
      simp only [judgeFrame] at h
      split at h
      · next hi =>
        obtain ⟨hmax, body', hrest, hlen⟩ := frameIntact_iff_append.mp hi
        split at h
        · cases h
        · next hc =>
          injection h with h1 h2
          subst h1
          rw [hrest, List.dropLast_concat] at h2
          subst h2
          have hcode := cmdOf_eq_some.mp hc
          refine ⟨?_, by omega⟩
          unfold requestFrame
          rw [length_byte hlen, ← hcode, ← hrest]
      · cases h
  · rintro ⟨rfl, hmax⟩
    have hi : frameIntact (cmdCode c) (byte body.length) (body ++ [crc8 (cmdCode c :: byte body.length :: body)]) = true :=
      frameIntact_iff_append.mpr ⟨by rw [toNat_byte (by omega)]; exact hmax, body, rfl, (toNat_byte (by omega)).symm⟩
    simp only [requestFrame, judgeFrame, if_pos hi, cmdOf_eq_some.mpr rfl, List.dropLast_concat]

/-! ## The fields of a route entry -/

@[simp] theorem yesNoOf_byteOfBool (b : Bool) : yesNoOf (byteOfBool b) = some b := by
  cases b <;> rfl

@[simp] theorem policyOf_byteOfPolicy (x : Policy) : policyOf (byteOfPolicy x) = some x := by
  cases x <;> rfl

@[simp] theorem hostOf_byte (h : HostId) : hostOf (byte h.val) = some h :=
  hostOf_eq_some.mpr (by rw [toNat_byte (by omega)])

@[simp] theorem optHostOf_byteOfOptHost (h : Option HostId) : optHostOf (byteOfOptHost h) = some h := by
  revert h
  decide

@[simp] theorem hostSetOf_byteOfHostSet (hs : HostSet) : hostSetOf (byteOfHostSet hs) = some hs := by
  have hlt : hs.toNat < 16 := hs.isLt
  have hb : (byteOfHostSet hs).toNat = hs.toNat := toNat_byte (by omega)
  rw [hostSetOf, hb, if_pos hlt]
  simp

theorem timeOf_bytes {lo k : Nat} (hlo : lo ≤ k) (hk : k ≤ 1000) : timeOf lo (byte (k / 256)) (byte k) = some k := by
  refine timeOf_eq_some.mpr ⟨?_, hlo, hk⟩
  simp [byte]
  omega

/-- The fields of a legal route configuration are read back from its bytes. -/
theorem routeConfigOf_bytes {c : RouteConfig} (hc : c.inRange) :
    routeConfigOf (byteOfBool c.enabled) (byte c.owner.val) (byteOfHostSet c.targets) (byte c.priority)
      (byteOfPolicy c.policy) (byte c.depth) (byte (c.deadline / 256)) (byte c.deadline) (byteOfOptHost c.fallback)
      (byteOfBool c.deepWake) (byteOfHostSet c.posters) = some c := by
  obtain ⟨hp1, hp2, hd1, hd2, ht⟩ := hc
  simp [routeConfigOf, rangeOf_byte (by decide) hp1 hp2, rangeOf_byte (by decide) hd1 hd2, timeOf_bytes (Nat.zero_le _) ht]

/-- Settles O2: each field's byte is read back as the field. -/
theorem readAnswersReadBack : Obligations.ReadAnswersReadBack :=
  ⟨fun _ n hc => ⟨sourceOf_byte n, routeConfigOf_bytes hc⟩, fun _ n hc => ⟨lineOf_byte n, lineConfigOf_bytes hc⟩⟩

end Sys2Proof.Proofs.Encodings
end

section
/-! PROOFS. Commands at their ports and the Host Manager's commands (R140 to R147, R168): what an answer changes, the return to RUN, the
checks that every command shares, ATTACH, DETACH and POWER. -/

namespace Sys2Proof.Proofs.HostCommands

open Sys2Proof Sys2Proof.Machine Sys2Proof.Proofs.StepEffects Sys2Proof.Proofs.Configuration Sys2Proof.Proofs.RecordLife
  Sys2Proof.Proofs.QueueOrder Sys2Proof.Proofs.OfferQueues

/-! ## What an answer changes -/

section
variable (s x : State) (p : HostId) (body : List Byte) (r : Response)

theorem answerOn_answered : (s.answered x p body r).answerOn p = some r := by
  have hport : (s.answered x p body r).port p = s.answeredPort p body r := by
    unfold State.answered
    rw [port_driveLines, port_setPort_same]
  unfold State.answerOn
  rw [hport]
  cases he : (s.port p).execution <;> simp [State.answeredPort, he]

theorem sameOtherPorts_answered : SameOtherPorts p x (s.answered x p body r) := fun q hq => by
  unfold State.answered
  rw [port_driveLines, port_setPort_other _ _ _ _ hq]

theorem sameRest_answered : SameRest x (s.answered x p body r) := ⟨rfl, rfl, rfl, rfl, fun _ => rfl⟩

theorem sameDelivery_answered : SameDelivery x (s.answered x p body r) := fun h => by
  unfold State.answered
  rw [deliv_driveLines]
  exact ⟨rfl, rfl, rfl, rfl, rfl⟩

theorem sameHosts_answered : SameHosts x (s.answered x p body r) := fun h => by
  unfold State.answered
  rw [host_driveLines]
  exact ⟨rfl, rfl, rfl, rfl⟩

theorem answered_linesDriven : (s.answered x p body r).LinesDriven := driveLines_linesDriven _

theorem record?_answered (i : SlotId) : (s.answered x p body r).record? i = x.record? i := rfl

theorem copy?_answered (i : SlotId) (h : HostId) : (s.answered x p body r).copy? i h = x.copy? i h := rfl

end

theorem SameRest.trans {s t u : State} (h : SameRest s t) (k : SameRest t u) : SameRest s u := by
  obtain ⟨h1, h2, h3, h4, h5⟩ := h
  obtain ⟨k1, k2, k3, k4, k5⟩ := k
  exact ⟨k1.trans h1, k2.trans h2, k3.trans h3, k4.trans h4, fun n => (k5 n).trans (h5 n)⟩

theorem sameRest_of_kept {s t : State} (h : Kept s t) : SameRest s t :=
  ⟨h.lines, h.clock, h.administrator, h.pending, h.config⟩

/-- A state's route entries stay where its configurations and its counts and outcomes stay. -/
theorem sameOtherPorts_of_ports {p : HostId} {s t u : State} (h : t.ports = s.ports) (k : SameOtherPorts p t u) :
    SameOtherPorts p s u := fun q hq => by
  rw [k q hq]
  unfold State.port
  rw [h]

/-! ## Every copy of one host changed -/

theorem copy?_mapCopies (s : State) (h k : HostId) (f : Copy → Copy) (i : SlotId) :
    (s.mapCopies h f).copy? i k = if k = h then (s.copy? i k).map f else s.copy? i k := by
  unfold State.copy?
  rw [record?_mapCopies]
  cases s.record? i with
  | none => simp
  | some r =>
    show (r.modifyCopy h f).copy k = _
    rw [copy_modifyCopy]
    split_ifs with e
    · rw [e]
    · rfl

theorem withoutCopies_modifyCopy (r : Record) (h : HostId) (f : Copy → Copy) :
    (r.modifyCopy h f).withoutCopies = r.withoutCopies := by
  unfold Record.modifyCopy
  split <;> rfl

/-- The copies of a host changed leave each record but for its copies (R68). -/
theorem mapCopies_sameRecords (s : State) (h : HostId) (f : Copy → Copy) : SameRecordsButCopies s (s.mapCopies h f) := by
  have hslot : ∀ i, (s.mapCopies h f).slot i = _ := fun i => vget_vof _ i
  refine ⟨fun i => ⟨by rw [hslot], ?_⟩, rfl, rfl, rfl⟩
  rw [record?_mapCopies, Option.map_map]
  exact congrArg (fun g => (s.record? i).map g) (funext fun r => withoutCopies_modifyCopy r h f)

theorem unpark_eq (c : Copy) : c.unpark = { c with state := if c.state = .parked then .pending else c.state } := by
  unfold Copy.unpark
  split <;> rfl

theorem park_eq (c : Copy) : c.park = { c with state := if c.state = .pending then .parked else c.state } := by
  unfold Copy.park
  split <;> rfl

/-! ## The return to RUN -/

theorem returnToRun_of_asleep {s : State} {p : HostId} (h : (s.host p).state = .deep ∨ (s.host p).state = .waking) :
    s.returnToRun p = (s.setHost p { s.host p with state := .run, wakeTimer := none }).mapCopies p Copy.unpark := by
  unfold State.returnToRun
  rcases h with h | h <;> rw [h]

theorem returnToRun_of_awake {s : State} {p : HostId} (hd : (s.host p).state ≠ .deep) (hw : (s.host p).state ≠ .waking) :
    s.returnToRun p = s := by
  unfold State.returnToRun
  split
  · next h => exact absurd h hd
  · next h => exact absurd h hw
  · rfl

theorem returnToRun_of_not_usable {s : State} {p : HostId} (hu : s.usable p = false) : s.returnToRun p = s := by
  unfold State.usable at hu
  refine returnToRun_of_awake (fun h => ?_) (fun h => ?_) <;> · rw [h] at hu; cases hu

theorem run_of_usable {s : State} {p : HostId} (hu : (s.returnToRun p).usable p = true) :
    ((s.returnToRun p).host p).state = .run := (returnToRun_awake s p).run hu

/-- Settles O7: a host asleep is written to RUN with its copies unparked in place. -/
theorem sleepingHostReturnsToRun : Obligations.SleepingHostReturnsToRun := by
  rintro s w p rfl
  refine ⟨fun hd hw => returnToRun_of_awake hd hw, fun hasleep => ?_⟩
  rw [returnToRun_of_asleep hasleep]
  refine ⟨by simp, fun h hh => host_setHost_other _ _ _ _ hh, fun i h => ?_, mapCopies_sameRecords _ p _, rfl, rfl, rfl, rfl, rfl,
    rfl, rfl, rfl, rfl, fun _ => rfl⟩
  rw [copy?_mapCopies, funext unpark_eq]
  rfl

/-! ## The completion -/

theorem complete_answered {s : State} {p : HostId} {r : Response} (h : (s.port p).execution = .answered r) :
    s.complete p = s.placeAnswer p r := by
  simp only [State.complete, h]

theorem ready_of_received {s : State} {p : HostId} {c : Cmd} {body : List Byte}
    (h : (s.port p).execution = .received c body) : s.ready p c body = true := by
  simp only [State.ready, h, and_self, decide_true]

/-- Settles O8: a frame held as received acts in its row and its answer waits, so that the completion which follows places it. -/
theorem completionPlacesTheAnswer : Obligations.CompletionPlacesTheAnswer := by
  intro s p
  refine ⟨fun r hr => ?_, fun hi => ?_, fun c body hrec => ?_⟩
  · exact congrArg Host.Outcome.next (complete_answered hr)
  · refine congrArg Host.Outcome.next ?_
    simp only [State.complete, hi]
  · refine ⟨s.carryOut p body (ruleOf c), ?_, congrArg Host.Outcome.next ?_⟩
    · rw [exec_rowOf, hostCommand_of_ready (ready_of_received hrec)]
    · have hport : ((s.carryOut p body (ruleOf c)).port p).execution
          = .answered (ruleOf c p body (s.returnToRun p)).2 := by
        show (((_ : State).setPort p (s.answeredPort p body _)).driveLines.port p).execution = _
        rw [port_driveLines, port_setPort_same]
        simp only [State.answeredPort, hrec]
      rw [complete_answered hport]
      simp only [State.complete, hrec]

/-! ## Checks that commands share -/

section
variable {s : State} {p : HostId} {body : List Byte}

/-- Every command but ATTACH, STATUS and IDENT asks first that its requester is attached (R168). -/
theorem rule_of_not_usable {c : Cmd} (hu : s.usable p = false) (ha : c ≠ .attach) (hs : c ≠ .status) (hi : c ≠ .ident) :
    ruleOf c p body s = (s, bare .state) := by
  cases c with
  | ident => exact absurd rfl hi
  | status => exact absurd rfl hs
  | attach => exact absurd rfl ha
  | level => exact levelRule_of_not_usable hu
  | peek => exact peekRule_of_not_usable hu
  | receipt => exact PostUnit.receiptRule_of_not_usable hu
  | restore => exact ClockSupervision.restoreRule_of_not_usable hu
  | detach => simp [ruleOf, detachRule, hu]
  | power => simp [ruleOf, powerRule, hu]
  | take => simp [ruleOf, takeRule, hu]
  | ack => simp [ruleOf, ackRule, hu]
  | detail => simp [ruleOf, detailRule, hu]
  | post => simp [ruleOf, postRule, hu]
  | routeRead => simp [ruleOf, routeReadRule, hu]
  | routeWrite => simp [ruleOf, routeWriteRule, hu]
  | purge => simp [ruleOf, purgeRule, hu]
  | lineRead => simp [ruleOf, lineReadRule, hu]
  | lineWrite => simp [ruleOf, lineWriteRule, hu]
  | flushall => simp [ruleOf, flushallRule, hu]

theorem isEmpty_of_wrong_length {body : List Byte} (hb : body.length ≠ 0) : body.isEmpty = false := by
  cases body with
  | nil => exact absurd rfl hb
  | cons => rfl

/-- Each command answers BADARG to a body of another length than its own, past the checks that come before (Table 11-6). -/
theorem rule_of_wrong_length {c : Cmd} (hu : s.usable p = true ∨ c = .attach ∨ c = .status ∨ c = .ident)
    (hadm : c = .flushall ∨ c = .restore → s.administrator = p) (hb : body.length ≠ bodyLength c) :
    ruleOf c p body s = (s, bare .badarg) := by
  have hattached : c ≠ .attach → c ≠ .status → c ≠ .ident → s.usable p = true := fun h1 h2 h3 => by
    rcases hu with h | h | h | h
    · exact h
    · exact absurd h h1
    · exact absurd h h2
    · exact absurd h h3
  cases c with
  | ident => simp [ruleOf, identRule, isEmpty_of_wrong_length hb]
  | status => simp [ruleOf, statusRule, isEmpty_of_wrong_length hb]
  | detach => simp [ruleOf, detachRule, hattached, isEmpty_of_wrong_length hb]
  | take => simp [ruleOf, takeRule, hattached, isEmpty_of_wrong_length hb]
  | peek => simp [ruleOf, peekRule, hattached, isEmpty_of_wrong_length hb]
  | receipt => simp [ruleOf, receiptRule, hattached, isEmpty_of_wrong_length hb]
  | flushall => simp [ruleOf, flushallRule, hattached, hadm, isEmpty_of_wrong_length hb]
  | restore => simp [ruleOf, restoreRule, hattached, hadm, isEmpty_of_wrong_length hb]
  | attach =>
    simp only [ruleOf, attachRule]
    split
    · exact absurd rfl hb
    · rfl
  | _ =>
    have hu : s.usable p = true := hattached Cmd.noConfusion Cmd.noConfusion Cmd.noConfusion
    simp only [ruleOf, powerRule, levelRule, ackRule, detailRule, postRule, routeReadRule, routeWriteRule, purgeRule,
      lineReadRule, lineWriteRule, hu, Bool.not_true, Bool.false_eq_true, if_false]
    split
    · exact absurd rfl hb
    · rfl

end

/-- Settles O11: a requester in OFFLINE or LOST does not return to RUN, and the first check of its command answers it. -/
theorem unattachedHostsAreAnsweredState : Obligations.UnattachedHostsAreAnsweredState := by
  intro s p c body hready hu ha hs hi
  have hw := returnToRun_of_not_usable hu
  refine exec_rowOf_of_ready hready ?_
  rw [hw]
  exact rule_of_not_usable hu ha hs hi

/-- Settles O12: the check of the length is the first after those of the requester. -/
theorem wrongBodyLengthIsBadarg : Obligations.WrongBodyLengthIsBadarg := by
  rintro s w p c body hready rfl hu hadm hb
  exact exec_rowOf_of_ready hready
    (rule_of_wrong_length hu (fun hc => (returnToRun_kept s p).administrator.trans (hadm hc)) hb)

/-! ## ATTACH and DETACH -/

theorem timeOf_eq_none {lo : Nat} {hi8 lo8 : Byte} :
    timeOf lo hi8 lo8 = none ↔ hi8.toNat * 256 + lo8.toNat < lo ∨ 1000 < hi8.toNat * 256 + lo8.toNat := by
  unfold timeOf be16 Config.timeLimit
  split <;> simp <;> omega

section
variable {s : State} {p : HostId} {gHi gLo wHi wLo fresh : Byte}

/-- ATTACH refuses a limit or a FRESH byte out of its range (R141, order 2). -/
theorem attachRule_of_bad_value
    (h : timeOf 1 gHi gLo = none ∨ timeOf 1 wHi wLo = none ∨ yesNoOf fresh = none) :
    attachRule p [gHi, gLo, wHi, wLo, fresh] s = (s, bare .badarg) := by
  simp only [attachRule]
  split
  · next hg hw hf => simp [hg, hw, hf] at h
  · rfl

theorem attachRule_of_values {grace wake : Nat} {f : Bool} (hg : timeOf 1 gHi gLo = some grace)
    (hw : timeOf 1 wHi wLo = some wake) (hf : yesNoOf fresh = some f) :
    attachRule p [gHi, gLo, wHi, wLo, fresh] s = attachChecked p grace wake f s := by
  simp only [attachRule, hg, hw, hf]

theorem detachRule_of_in_service (hu : s.usable p = true) (hk : (s.deliv p).stack ≠ []) :
    detachRule p [] s = (s, bare .state) := by
  simp [detachRule, hu, hk]

theorem detachRule_of_clear (hu : s.usable p = true) (hk : (s.deliv p).stack = []) :
    detachRule p [] s = (s.detachHost p, bare .ok) := by
  simp [detachRule, hu, hk]

end

/-- Settles O14: the values are read, and the state of the requester chooses the answer. -/
theorem attachOpensASession : Obligations.AttachOpensASession := by
  rintro s w p gHi gLo wHi wLo fresh grace wake opened hready rfl hgrace hwake rfl
  refine ⟨fun hbad => exec_rowOf_of_ready (c := .attach) hready (attachRule_of_bad_value ?_), fun hg1 hg2 hw1 hw2 hf => ?_⟩
  · rw [timeOf_eq_none, timeOf_eq_none, yesNoOf_eq_none, ← hgrace, ← hwake]
    omega
  · have hg : timeOf 1 gHi gLo = some grace := timeOf_eq_some.mpr ⟨hgrace, hg1, hg2⟩
    have hw : timeOf 1 wHi wLo = some wake := timeOf_eq_some.mpr ⟨hwake, hw1, hw2⟩
    have hrule := attachRule_of_values (s := s.returnToRun p) (p := p) hg hw (yesNoOf_of_le_one hf)
    refine ⟨fun hx => ?_, fun hx => ?_, fun hx hfresh => ?_⟩ <;>
      refine exec_rowOf_of_ready (c := .attach) hready (hrule.trans ?_)
    · simp only [attachChecked, hx]
      rfl
    · simp only [attachChecked, hx]
      rfl
    · simp [attachChecked, hx, hfresh]
      rfl

/-- Settles O15: both make the cleanup with the host written OFFLINE first. -/
theorem detachAndFreshCleanUp : Obligations.DetachAndFreshCleanUp := by
  rintro s w cleaned p rfl rfl
  refine ⟨fun hready hu => ⟨fun hk => ?_, fun hk => ?_⟩, fun gHi gLo wHi wLo grace wake hready hgrace hwake hg1 hg2 hw1 hw2 hx => ?_⟩
  · exact exec_rowOf_of_ready (c := .detach) hready (detachRule_of_in_service hu hk)
  · exact exec_rowOf_of_ready (c := .detach) hready (detachRule_of_clear hu hk)
  · have hg : timeOf 1 gHi gLo = some grace := timeOf_eq_some.mpr ⟨hgrace, hg1, hg2⟩
    have hw : timeOf 1 wHi wLo = some wake := timeOf_eq_some.mpr ⟨hwake, hw1, hw2⟩
    refine exec_rowOf_of_ready (c := .attach) hready ((attachRule_of_values hg hw (f := true) rfl).trans ?_)
    simp only [attachChecked, hx, if_true]
    rfl

/-! ## POWER -/

section
variable {s : State} {p : HostId}

theorem powerRule_of_bad_value {b : Byte} (hu : s.usable p = true) (hb : 1 < b.toNat) :
    powerRule p [b] s = (s, bare .badarg) := by
  simp [powerRule, hu, yesNoOf_eq_none.mpr hb]

theorem powerRule_run (hu : s.usable p = true) : powerRule p [0] s = (s, bare .ok) := by
  have h0 : yesNoOf 0 = some false := rfl
  simp only [powerRule, hu, h0, Bool.not_true, Bool.false_eq_true, if_false]

theorem powerRule_deep (hu : s.usable p = true) :
    powerRule p [1] s =
      if !(s.deliv p).stack.isEmpty then (s, bare .state)
      else if s.deepWakeOffered p then (s, bare .busy)
      else (s.sleepHost p, bare .ok) := by
  have h1 : yesNoOf 1 = some true := rfl
  simp only [powerRule, hu, h1, Bool.not_true, Bool.false_eq_true, if_false]

theorem deepWakeAt_iff {i : SlotId} : s.deepWakeAt i = true ↔ ∃ r, s.record? i = some r ∧ r.deepWake = true := by
  unfold State.deepWakeAt
  cases s.record? i <;> simp

theorem deepWakeOffered_iff :
    s.deepWakeOffered p = true ↔
      ∃ i ∈ (s.deliv p).queue, s.isPending p i = true ∧ ∃ r, s.record? i = some r ∧ r.deepWake = true := by
  simp [State.deepWakeOffered, deepWakeAt_iff]

end

/-- Settles O17: the answers of POWER's rule that come before the sleep. -/
theorem powerIsChecked : Obligations.PowerIsChecked := by
  rintro s w p b hready rfl hu
  refine ⟨fun hb => ?_, fun hb => ?_, fun hb hk => ?_, fun hb hk hq => ?_⟩ <;>
    refine exec_rowOf_of_ready (c := .power) hready ?_
  · exact powerRule_of_bad_value hu hb
  · rw [hb]; exact powerRule_run hu
  · rw [hb]
    refine (powerRule_deep hu).trans (if_pos ?_)
    simpa using hk
  · rw [hb]
    refine (powerRule_deep hu).trans ?_
    rw [hk, deepWakeOffered_iff.mpr hq]
    rfl

/-- Settles O18: past its checks the host is written DEEP and its copies are parked in place; a DEEP host's lines are deasserted. -/
theorem powerDeepParksTheCopies : Obligations.PowerDeepParksTheCopies := by
  rintro s w p hready rfl hu hk hq
  generalize hw : s.returnToRun p = w at hu hk hq ⊢
  have hno : w.deepWakeOffered p = false := by
    refine Bool.eq_false_iff.mpr fun h => ?_
    obtain ⟨i, hi, hp, r, hr, hd⟩ := deepWakeOffered_iff.mp h
    rw [hq i hi hp r hr] at hd
    cases hd
  have hrule : ruleOf .power p [1] (s.returnToRun p) = (w.sleepHost p, bare .ok) := by
    rw [hw]
    refine (powerRule_deep hu).trans ?_
    rw [hk, hno]
    rfl
  have hhost : ∀ h, (w.sleepHost p).host h = if h = p then { w.host p with state := .deep } else w.host h := fun h => by
    unfold State.sleepHost State.setHostState
    rw [host_mapCopies, host_setHost]
  refine ⟨_, exec_rowOf_of_ready hready hrule, answerOn_answered .., ?_⟩
  have hlines := answered_linesDriven s (w.sleepHost p) p [1] (bare .ok) p
  have hsame := sameHosts_answered s (w.sleepHost p) p [1] (bare .ok)
  have hdeliv := sameDelivery_answered s (w.sleepHost p) p [1] (bare .ok)
  have hports := sameOtherPorts_answered s (w.sleepHost p) p [1] (bare .ok)
  have hrest := sameRest_answered s (w.sleepHost p) p [1] (bare .ok)
  have hcopies := copy?_answered s (w.sleepHost p) p [1] (bare .ok)
  have hp : (s.answered (w.sleepHost p) p [1] (bare .ok)).host p |>.same { w.host p with state := .deep } := by
    have h := hsame p
    rwa [hhost, if_pos rfl] at h
  refine ⟨hp.1, hp, ?_, ?_, fun h hh => ?_, fun i h => ?_, mapCopies_sameRecords _ p _, hdeliv, rfl, rfl, rfl, hports, hrest⟩
  · rw [hlines.2, State.wakeCondition, hp.1]
    rfl
  · rw [hlines.1, State.attnCondition, hp.1]
    rfl
  · have hsame := hsame h
    rwa [hhost, if_neg hh] at hsame
  · rw [hcopies, State.sleepHost, copy?_mapCopies, funext park_eq]
    rfl

end Sys2Proof.Proofs.HostCommands
end

section
/-! PROOFS. The commands of a queue and a stack, and what they do to copies: TAKE (R94 to R96), ACK (R69 to R72), withdrawal (R74),
escalation (R77, R78) and deadline expiry (R64 to R66). -/

namespace Sys2Proof.Proofs.CopyLife

open Sys2Proof Sys2Proof.Machine Sys2Proof.Proofs.StepEffects Sys2Proof.Proofs.Configuration Sys2Proof.Proofs.RecordLife
  Sys2Proof.Proofs.QueueOrder Sys2Proof.Proofs.OfferQueues Sys2Proof.Proofs.HostsAndReceipts Sys2Proof.Proofs.HostCommands

/-! ## What a change of copies leaves alone -/

/-- Every slot keeps its generation and what `f` reads of its record, and the counts, routes, wait list and posts stay. -/
structure RecordsKept {α : Type} (f : Record → α) (s t : State) : Prop where
  generation : ∀ i, (t.slot i).generation = (s.slot i).generation
  record : ∀ i, (t.record? i).map f = (s.record? i).map f
  generalLive : t.store.generalLive = s.store.generalLive
  systemLive : t.store.systemLive = s.store.systemLive
  births : t.store.births = s.store.births
  routes : t.routes = s.routes
  waitList : t.waitList = s.waitList
  posts : t.posts = s.posts

section
variable {α : Type} {f : Record → α} {s t u : State}

theorem RecordsKept.refl (f : Record → α) (s : State) : RecordsKept f s s :=
  ⟨fun _ => rfl, fun _ => rfl, rfl, rfl, rfl, rfl, rfl, rfl⟩

theorem RecordsKept.trans (h : RecordsKept f s t) (k : RecordsKept f t u) : RecordsKept f s u :=
  ⟨fun i => (k.generation i).trans (h.generation i), fun i => (k.record i).trans (h.record i),
    k.generalLive.trans h.generalLive, k.systemLive.trans h.systemLive, k.births.trans h.births,
    k.routes.trans h.routes, k.waitList.trans h.waitList, k.posts.trans h.posts⟩

theorem RecordsKept.foldl {β : Type} {g : State → β → State} (hg : ∀ s x, RecordsKept f s (g s x)) (l : List β) (s : State) :
    RecordsKept f s (l.foldl g s) := by
  induction l generalizing s with
  | nil => exact .refl f s
  | cons x xs ih => exact (hg s x).trans (ih _)

theorem RecordsKept.of_store (hs : t.store = s.store) (hr : t.routes = s.routes) (hw : t.waitList = s.waitList)
    (hp : t.posts = s.posts) : RecordsKept f s t := by
  refine ⟨fun i => ?_, fun i => ?_, by rw [hs], by rw [hs], by rw [hs], hr, hw, hp⟩
  · unfold State.slot
    rw [hs]
  · rw [record?_of_store hs]

/-- What is kept of the copies is kept of what follows from it. -/
theorem RecordsKept.map {β : Type} (g : α → β) (h : RecordsKept f s t) : RecordsKept (g ∘ f) s t where
  generation := h.generation
  record i := by rw [← Option.map_map, ← Option.map_map, h.record]
  generalLive := h.generalLive
  systemLive := h.systemLive
  births := h.births
  routes := h.routes
  waitList := h.waitList
  posts := h.posts

theorem RecordsKept.sameRecords (h : RecordsKept Record.withoutCopies s t) : SameRecordsButCopies s t :=
  ⟨fun i => ⟨h.generation i, h.record i⟩, h.generalLive, h.systemLive, h.births⟩

end

theorem modifyRecord_recordsKept {α : Type} {f : Record → α} (s : State) (i : SlotId) {g : Record → Record}
    (hg : ∀ r, f (g r) = f r) : RecordsKept f s (s.modifyRecord i g) := by
  have hrest : (s.modifyRecord i g).store.generalLive = s.store.generalLive
      ∧ (s.modifyRecord i g).store.systemLive = s.store.systemLive ∧ (s.modifyRecord i g).store.births = s.store.births
      ∧ (s.modifyRecord i g).routes = s.routes ∧ (s.modifyRecord i g).waitList = s.waitList
      ∧ (s.modifyRecord i g).posts = s.posts := by
    unfold State.modifyRecord
    split <;> exact ⟨rfl, rfl, rfl, rfl, rfl, rfl⟩
  obtain ⟨h1, h2, h3, h4, h5, h6⟩ := hrest
  refine ⟨fun j => ?_, fun j => ?_, h1, h2, h3, h4, h5, h6⟩
  · rw [slot_modifyRecord]
    split_ifs with e
    · rw [e]
    · rfl
  · rw [record?_modifyRecord]
    split_ifs with e
    · rw [e, Option.map_map]
      exact congrArg (fun k => (s.record? i).map k) (funext hg)
    · rfl

theorem setCopy_recordsKept (s : State) (i : SlotId) (h : HostId) (c : Copy) :
    RecordsKept Record.withoutCopies s (s.setCopy i h c) := modifyRecord_recordsKept s i fun _ => rfl

theorem dequeue_recordsKept {α : Type} (f : Record → α) (s : State) (h : HostId) (i : SlotId) :
    RecordsKept f s (s.dequeue h i) := .of_store rfl rfl rfl rfl

theorem withdrawCopy_recordsKept (s : State) (i : SlotId) (h : HostId) :
    RecordsKept Record.withoutCopies s (s.withdrawCopy i h) := by
  unfold State.withdrawCopy
  split
  · exact .refl _ s
  · split
    · exact (setCopy_recordsKept s i h _).trans (dequeue_recordsKept _ _ h i)
    · exact (setCopy_recordsKept s i h _).trans (dequeue_recordsKept _ _ h i)
    · exact setCopy_recordsKept s i h _
    · exact setCopy_recordsKept s i h _
    · exact .refl _ s

theorem withdraw_recordsKept (s : State) (i : SlotId) : RecordsKept Record.withoutCopies s (s.withdraw i) :=
  .foldl (fun t h => withdrawCopy_recordsKept t i h) _ s

/-! ## Withdrawal -/

theorem withdrawn_eq (c : Copy) : withdrawn c =
    if c.state = .pending ∨ c.state = .parked then { c with state := .withdrawn, deadline := none, grace := none }
    else if c.state = .taken ∨ c.state = .overdue then { c with state := .stale, deadline := none, grace := none }
    else c := by
  cases hc : c.state <;> simp [withdrawn, hc, Copy.ended]

theorem copy?_withdraw (s : State) (i : SlotId) (h : HostId) : (s.withdraw i).copy? i h = (s.copy? i h).map withdrawn := by
  unfold State.copy?
  rw [record?_withdraw]
  cases s.record? i with
  | none => rfl
  | some r => exact copy_mapAll withdrawn r h

/-- A host's delivery state where its offered copy of the record in slot `i` has left the queue. -/
def leftQueue (s : State) (i : SlotId) (h : HostId) : Delivery :=
  { s.deliv h with
    queue := if s.offeredAt h i = true then (s.deliv h).queue.filter (fun x => x != i) else (s.deliv h).queue }

theorem leftQueue_of_not_offered {s : State} {i : SlotId} {h : HostId} (ho : s.offeredAt h i = false) :
    leftQueue s i h = s.deliv h := by
  simp [leftQueue, ho]

theorem leftQueue_congr {s t : State} {i : SlotId} {h : HostId} (hd : t.deliv h = s.deliv h) (hc : t.copy? i h = s.copy? i h) :
    leftQueue t i h = leftQueue s i h := by
  unfold leftQueue State.offeredAt
  rw [hd, hc]

theorem deliv_withdrawCopy (s : State) (i : SlotId) (h k : HostId) :
    (s.withdrawCopy i h).deliv k = if k = h then leftQueue s i h else s.deliv k := by
  unfold State.withdrawCopy
  cases hc : s.copy? i h with
  | none =>
    have ho : s.offeredAt h i = false := by rw [offeredAt_eq, hc]; rfl
    rw [leftQueue_of_not_offered ho]
    split_ifs with e
    · rw [e]
    · rfl
  | some c =>
    have ho : s.offeredAt h i = c.offered := by rw [offeredAt_eq, hc]; rfl
    have hleave : c.offered = true → ((s.setCopy i h (c.ended .withdrawn)).dequeue h i).deliv k
        = if k = h then leftQueue s i h else s.deliv k := fun hoff => by
      rw [deliv_dequeue, deliv_setCopy, deliv_setCopy, leftQueue, ho, hoff]
      rfl
    have hstay : c.offered = false → ∀ d, (s.setCopy i h d).deliv k = if k = h then leftQueue s i h else s.deliv k :=
      fun hoff d => by
        rw [deliv_setCopy, leftQueue_of_not_offered (ho.trans hoff)]
        split_ifs with e
        · rw [e]
        · rfl
    have hnothing : c.offered = false → s.deliv k = if k = h then leftQueue s i h else s.deliv k := fun hoff => by
      rw [← hstay hoff c, deliv_setCopy]
    cases hx : c.state <;> simp only [Copy.offered, hx] at hleave hstay hnothing ⊢
    case pending | parked => exact hleave trivial
    case taken | overdue => exact hstay trivial _
    case stale | acked | expired | withdrawn => exact hnothing trivial

theorem copy?_withdrawCopy_other (s : State) (i : SlotId) {h k : HostId} (hk : k ≠ h) :
    (s.withdrawCopy i h).copy? i k = s.copy? i k := by
  unfold State.copy?
  rw [record?_withdrawCopy]
  cases s.record? i with
  | none => rfl
  | some r => exact (copy_modifyCopy r h k withdrawn).trans (if_neg hk)

theorem deliv_foldl_withdrawCopy (i : SlotId) (l : List HostId) (hl : l.Nodup) (s : State) (k : HostId) :
    (l.foldl (fun t h => t.withdrawCopy i h) s).deliv k = if k ∈ l then leftQueue s i k else s.deliv k := by
  induction l generalizing s with
  | nil => simp
  | cons h hs ih =>
    obtain ⟨hh, hhs⟩ := List.nodup_cons.mp hl
    rw [List.foldl_cons, ih hhs]
    by_cases e : k = h
    · subst e
      rw [if_neg hh, deliv_withdrawCopy, if_pos rfl, if_pos List.mem_cons_self]
    · have hd : (s.withdrawCopy i h).deliv k = s.deliv k := by rw [deliv_withdrawCopy, if_neg e]
      rw [leftQueue_congr hd (copy?_withdrawCopy_other s i e), hd]
      simp [e]

theorem deliv_withdraw (s : State) (i : SlotId) (h : HostId) : (s.withdraw i).deliv h = leftQueue s i h := by
  refine (deliv_foldl_withdrawCopy i _ (List.nodup_finRange 4) s h).trans (if_pos (mem_allHosts h))

/-- Settles O28: each host's copy is withdrawn in its turn, and a turn leaves the other hosts. -/
theorem withdrawalEndsTheOffers : Obligations.WithdrawalEndsTheOffers := by
  rintro s t i rfl
  have hkept := withdraw_recordsKept s i
  refine ⟨fun h => ?_, fun h => deliv_withdraw s i h, withdraw_onlySlot s i, hkept.sameRecords, hkept.routes, hkept.waitList,
    withdraw_hosts s i, hkept.posts, (withdraw_kept s i).ports, sameRest_of_kept (withdraw_kept s i)⟩
  rw [copy?_withdraw, funext withdrawn_eq]

/-! ## Escalation -/

theorem escalate_of_escalates {s : State} {i : SlotId} {r : Record} {f : HostId} (trigger : HostId) (hr : s.record? i = some r)
    (he : Escalates s r f) :
    s.escalate i trigger = ((s.setRecord i (s.escalatedRecord r f trigger)).enqueue f i).wakeFor f i := by
  have hf := he.1
  unfold State.escalate
  simp only [hr, hf, (mayEscalate_iff hf).mpr he, if_true]

theorem escalate_of_none {s : State} {i : SlotId} {r : Record} (trigger : HostId) (hr : s.record? i = some r)
    (hno : ∀ f, ¬ Escalates s r f) : s.escalate i trigger = s := by
  rcases escalate_cases s i trigger with h | ⟨r', f, hr', he, -⟩
  · exact h
  · rw [hr] at hr'
    cases hr'
    exact absurd he (hno f)

theorem escalatedRecord_eq {s : State} {r : Record} {f : HostId} (trigger : HostId) (hu : s.usable f = true) :
    s.escalatedRecord r f trigger =
      { r with
        copies := vset r.copies f
          (some { state := madeCopyState (s.host f).state r.deepWake, deadline := none, grace := none, escalation := true })
        escalated := true
        covered := some trigger } := by
  unfold State.escalatedRecord
  rw [newCopy_eq s r f true hu]
  rfl

theorem setRecord_recordsKept {α : Type} {f : Record → α} {s : State} {i : SlotId} {r r' : Record} (hr : s.record? i = some r)
    (hf : f r' = f r) : RecordsKept f s (s.setRecord i r') := by
  refine ⟨fun j => generation_setRecord s i j r', fun j => ?_, rfl, rfl, rfl, rfl, rfl, rfl⟩
  rw [record?_setRecord]
  split_ifs with e
  · rw [e, hr, Option.map_some, Option.map_some, hf]
  · rfl

theorem wakeFor_recordsKept {α : Type} (f : Record → α) (s : State) (h : HostId) (i : SlotId) :
    RecordsKept f s (s.wakeFor h i) := by
  unfold State.wakeFor
  split
  · exact .of_store rfl rfl rfl rfl
  · exact .refl f s

theorem enqueue_recordsKept {α : Type} (f : Record → α) (s : State) (h : HostId) (i : SlotId) :
    RecordsKept f s (s.enqueue h i) := .of_store rfl rfl rfl rfl

theorem deliv_wakeFor (s : State) (h k : HostId) (i : SlotId) : (s.wakeFor h i).deliv k = s.deliv k := by
  unfold State.deliv
  rw [wakeFor_delivery]

/-- Settles O29: under its conditions the attempt stores the escalated record, offers it and wakes its host. -/
theorem escalationCopiesTheFallback : Obligations.EscalationCopiesTheFallback := by
  rintro s t i trigger r hr rfl
  refine ⟨escalate_of_none trigger hr, fun f he => ?_⟩
  obtain ⟨-, -, -, hu, -, -⟩ := id he
  have heq := escalate_of_escalates trigger hr he
  have hrec : (s.escalate i trigger).record? i = some (s.escalatedRecord r f trigger) := by
    rw [heq, record?_of_store (wakeFor_store _ _ _)]
    exact record?_setRecord_same s i _
  have hkept : RecordsKept Record.source s (s.escalate i trigger) := by
    rw [heq]
    exact ((setRecord_recordsKept (r' := s.escalatedRecord r f trigger) hr rfl).trans (enqueue_recordsKept _ _ f i)).trans
      (wakeFor_recordsKept _ _ f i)
  have hprio : (s.setRecord i (s.escalatedRecord r f trigger)).priorityOf = s.priorityOf := by
    funext j
    unfold State.priorityOf
    rw [record?_setRecord]
    split_ifs with e
    · subst e
      rw [hr]
      rfl
    · rfl
  have hdeliv : ∀ h, (s.escalate i trigger).deliv h =
      if h = f then { s.deliv f with queue := insertByPriority s.priorityOf i (s.deliv f).queue } else s.deliv h := fun h => by
    rw [heq, deliv_wakeFor, deliv_enqueue, hprio]
    rfl
  have hhost : ∀ h, (s.escalate i trigger).host h = if h = f then (s.host f).woken r.deepWake else s.host h := fun h => by
    have hpend : (s.host f).state = .deep →
        (((s.setRecord i (s.escalatedRecord r f trigger)).enqueue f i).isPending f i = true ↔ r.deepWake = true) := fun hd => by
      have hcopy : ((s.setRecord i (s.escalatedRecord r f trigger)).enqueue f i).copy? i f
          = some { state := madeCopyState (s.host f).state r.deepWake, deadline := none, grace := none, escalation := true } := by
        refine (copy?_of_record (record?_setRecord_same s i _) f).trans ?_
        rw [escalatedRecord_eq trigger hu]
        exact vget_vset_same ..
      unfold State.isPending
      rw [hcopy, hd]
      cases r.deepWake <;> simp [madeCopyState]
    rw [heq, host_wakeFor]
    show (if h = f ∧ (s.host h).state = .deep ∧ _ then { s.host h with state := .waking, wakeTimer := some (s.host h).wakeLimit }
      else s.host h) = _
    by_cases e : h = f
    · subst e
      unfold HostRecord.woken
      by_cases hd : (s.host h).state = .deep
      · simp [hd, hpend hd]
      · simp [hd]
    · simp [e]
  have hk := escalate_kept s i trigger
  refine ⟨by rw [hrec, escalatedRecord_eq trigger hu],
    fun j => ⟨hkept.generation j, escalate_onlySlot s i trigger j⟩, hkept.generalLive, hkept.systemLive, ?_, ?_, ?_, ?_, ?_,
    hkept.routes, hkept.waitList, hkept.posts, hk.ports, sameRest_of_kept hk⟩
  · rw [hdeliv, if_pos rfl]
    exact insertByPriority_inserted _ _ _
  · rw [hdeliv, if_pos rfl]
  · exact fun h hh => (hdeliv h).trans (if_neg hh)
  · exact (hhost f).trans (if_pos rfl)
  · exact fun h hh => (hhost h).trans (if_neg hh)

/-! ## TAKE -/

section
variable {s : State} {p : HostId} {i : SlotId}

theorem takeRule_of_full (hu : s.usable p = true) (hk : 4 ≤ (s.deliv p).stack.length) : takeRule p [] s = (s, bare .stackfull) := by
  have hk' : Config.stackCapacity ≤ (s.deliv p).stack.length := hk
  simp [takeRule, hu, hk']

theorem takeRule_of_no_head (hu : s.usable p = true) (hk : (s.deliv p).stack.length < 4) (hh : s.head? p = none) :
    takeRule p [] s = (s, bare .none) := by
  have hk' : ¬ Config.stackCapacity ≤ (s.deliv p).stack.length := Nat.not_le.mpr hk
  simp [takeRule, hu, hk', hh]

theorem takeRule_of_head (hu : s.usable p = true) (hk : (s.deliv p).stack.length < 4) (hh : s.head? p = some i) :
    takeRule p [] s =
      if s.aboveGate p i then (s.takeHead p i, okWith ((s.takeHead p i).summaryAt i p)) else (s, bare .none) := by
  have hk' : ¬ Config.stackCapacity ≤ (s.deliv p).stack.length := Nat.not_le.mpr hk
  simp [takeRule, hu, hk', hh]

theorem aboveGate_of_record {r : Record} (hr : s.record? i = some r) :
    s.aboveGate p i = true ↔ (s.deliv p).threshold < r.priority ∧ (s.deliv p).runningLevel < r.priority := by
  simp [State.aboveGate, OfferQueues.priorityOf_of_record hr]

/-- The record after a TAKE, written out (R95). -/
theorem takenRecord_eq {r : Record} {c : Copy} (hc : r.copy p = some c) :
    takenRecord p r =
      { r with
        copies := vset r.copies p (some { c with state := .taken })
        particulars := match r.particulars with
          | .group members _ => .group members false
          | k => k } := by
  unfold takenRecord Record.modifyCopy
  simp only [hc]
  unfold Record.close Record.setCopy
  cases hp : r.particulars <;> simp [Copy.take]

theorem setDeliv_setDeliv (h : HostId) (d e : Delivery) : (s.setDeliv h d).setDeliv h e = s.setDeliv h e := by
  simp [State.setDeliv, vset]

theorem pushStack_eq : s.pushStack p i =
    s.setDeliv p
      { s.deliv p with
        queue := (s.deliv p).queue.filter (fun x => x != i)
        stack := i :: (s.deliv p).stack
        runningLevel := s.priorityOf i } := by
  unfold State.pushStack
  rw [deliv_dequeue, if_pos rfl]
  exact setDeliv_setDeliv p _ _

theorem takeHead_eq {r : Record} {c : Copy} (hr : s.record? i = some r) (hc : r.copy p = some c) :
    s.takeHead p i =
      (s.setDeliv p
        { s.deliv p with
          queue := (s.deliv p).queue.filter (fun x => x != i)
          stack := i :: (s.deliv p).stack
          runningLevel := r.priority }).setRecord i
        { r with
          copies := vset r.copies p (some { c with state := .taken })
          particulars := match r.particulars with
            | .group members _ => .group members false
            | k => k } := by
  rw [← takenRecord_eq hc, ← OfferQueues.priorityOf_of_record hr, ← pushStack_eq]
  have hr' : (s.pushStack p i).record? i = some r := by rw [record?_of_store (pushStack_store s p i)]; exact hr
  unfold State.takeHead State.modifyRecord
  simp only [hr']
  rfl

/-- Past the head that was taken, every PENDING copy of the queue comes behind it, at no higher priority (R87, R89). -/
theorem head?_takeHead_le {j : SlotId} (hs : HostAgrees s p) (hh : s.head? p = some i)
    (hj : (s.takeHead p i).head? p = some j) : s.priorityOf j ≤ s.priorityOf i := by
  obtain ⟨-, -, hprio, -, -, -, -⟩ := hs
  obtain ⟨hmem, hpend⟩ := head?_isPending hj
  rw [deliv_takeHead, if_pos rfl] at hmem
  obtain ⟨hq, hne⟩ := List.mem_filter.mp hmem
  have hji : j ≠ i := by simpa using hne
  have hpend' : s.isPending p j = true := by
    have hcopy : (s.takeHead p i).copy? j p = s.copy? j p := copy?_congr (by rw [record?_takeHead, if_neg hji]) p
    unfold State.isPending at hpend ⊢
    rwa [hcopy] at hpend
  obtain ⟨-, ahead, behind, hqueue, hahead⟩ := List.find?_eq_some_iff_append.mp hh
  rw [hqueue] at hq hprio
  rcases List.mem_append.mp hq with h | h
  · have := hahead j h
    rw [hpend'] at this
    cases this
  · rcases List.mem_cons.mp h with h | h
    · exact absurd h hji
    · exact (List.pairwise_cons.mp (List.pairwise_append.mp hprio).2.1).1 j h

/-- After a TAKE the queue has no eligible head: the running level is the priority that its copies do not pass (R92, R95). -/
theorem eligibleHead_takeHead (hs : HostAgrees s p) (hh : s.head? p = some i) : (s.takeHead p i).eligibleHead p = false := by
  unfold State.eligibleHead
  split
  · rfl
  · next j hj =>
    have hle := head?_takeHead_le hs hh hj
    have hlevel : ((s.takeHead p i).deliv p).runningLevel = s.priorityOf i := by rw [deliv_takeHead, if_pos rfl]
    have hprio : (s.takeHead p i).priorityOf j = s.priorityOf j := by
      unfold State.priorityOf
      rw [record?_takeHead]
      split_ifs with e
      · rw [e]
        cases s.record? i with
        | none => rfl
        | some r => exact takenRecord_priority p r
      · rfl
    unfold State.aboveGate
    rw [hlevel, hprio, decide_eq_false (Nat.not_lt.mpr hle), Bool.and_false]

theorem eligibleHead_answered (x : State) (body : List Byte) (r : Response) (k : HostId) :
    (s.answered x p body r).eligibleHead k = x.eligibleHead k := by
  unfold State.answered State.eligibleHead State.head? State.aboveGate
  rw [deliv_driveLines]
  rfl

end

/-- Settles O20: the answers of TAKE's rule in the order of its checks. -/
theorem takeMovesTheHead : Obligations.TakeMovesTheHead := by
  rintro s w p hready rfl hu
  refine ⟨fun hk => exec_rowOf_of_ready (c := .take) hready (takeRule_of_full hu hk),
    fun hk hh => exec_rowOf_of_ready (c := .take) hready (takeRule_of_no_head hu hk hh), fun i r c taken hk hh hr hc => ?_⟩
  have hrule := takeRule_of_head hu hk hh
  refine ⟨fun hlow => ?_, fun ht hl htaken => ?_⟩ <;>
    refine exec_rowOf_of_ready (c := .take) hready (hrule.trans ?_)
  · refine if_neg fun h => ?_
    obtain ⟨h1, h2⟩ := (aboveGate_of_record hr).mp h
    omega
  · have htake : (s.returnToRun p).takeHead p i = taken := (takeHead_eq hr hc).trans htaken.symm
    rw [if_pos ((aboveGate_of_record hr).mpr ⟨ht, hl⟩), htake]
    rfl

/-- Settles O21: the running level is the priority of the head that was taken, which no copy behind it passes. -/
theorem attentionFallsAtTake : Obligations.AttentionFallsAtTake := by
  rintro s w p i hs hready rfl hu hk hh hg
  have hw : HostAgrees (s.returnToRun p) p := returnToRun_agrees p (hs p)
  have hrule := takeRule_of_head hu hk hh
  rw [if_pos hg] at hrule
  refine ⟨_, exec_rowOf_of_ready (c := .take) hready hrule, ?_⟩
  refine ((answered_linesDriven _ _ _ _ _) p).1.trans ?_
  have hlow : State.eligibleHead (s.answered ((s.returnToRun p).takeHead p i) p []
      (okWith (((s.returnToRun p).takeHead p i).summaryAt i p))) p = false := by
    rw [eligibleHead_answered]
    exact eligibleHead_takeHead hw hh
  rw [State.attnCondition, hlow, Bool.and_false]

end Sys2Proof.Proofs.CopyLife
end

section
/-! PROOFS. The end of copies and records, and what is reported of them: summaries and DETAIL (R17 to R19, R96), ACK (R69 to R72),
retirement (R11, R15) and deadline expiry (R64 to R66). -/

namespace Sys2Proof.Proofs.Acknowledgement

open Sys2Proof Sys2Proof.Machine Sys2Proof.Proofs.StepEffects Sys2Proof.Proofs.RecordLife Sys2Proof.Proofs.QueueOrder
  Sys2Proof.Proofs.HostCommands Sys2Proof.Proofs.CopyLife

/-! ## Summaries -/

/-- Settles O23: the fields of the summary in their order, then those of the record's kind. -/
theorem summaryListsTheRecord : Obligations.SummaryListsTheRecord := by
  rintro s i h r c head hr hc rfl
  have hsum : s.summaryAt i h = s.summary i r h := by simp only [State.summaryAt, hr]
  have hesc : r.hasCopy h (fun c => c.escalation) = c.escalation := by simp only [Record.hasCopy, hc]
  refine ⟨fun hk => ?_, fun members o hk => ?_, fun hk => ?_, fun k hk => ?_, fun payload poster receipt hk => ?_⟩ <;>
    simp [hsum, State.summary, State.idBytes, summaryFlags, hesc, summaryTail, hk, bytes16]

/-! ## Occurrence IDs -/

section
variable {s : State} {generation slot : Byte} {i : SlotId}

theorem resolve_of_live {r : Record} (hi : i.val = slot.toNat) (hr : s.record? i = some r)
    (hg : (s.slot i).generation = generation) : s.resolve generation slot = some i :=
  resolve_eq_some.mpr ⟨hi, by rw [hr]; rfl, hg⟩

theorem resolve_of_not_live
    (h : ∀ i : SlotId, i.val = slot.toNat → s.record? i = none ∨ (s.slot i).generation ≠ generation) :
    s.resolve generation slot = none := by
  cases hres : s.resolve generation slot with
  | none => rfl
  | some i =>
    obtain ⟨hi, hlive, hg⟩ := resolve_eq_some.mp hres
    rcases h i hi with hr | hr
    · rw [hr] at hlive; cases hlive
    · exact absurd hg hr

/-- The two bytes of an ID are those that resolve to the slot. -/
theorem idBytes_of_resolve (hi : i.val = slot.toNat) (hg : (s.slot i).generation = generation) :
    s.idBytes i = [generation, slot] := by
  have hb : byte i.val = slot := by simp [byte, hi]
  rw [State.idBytes, hg, hb]

end

/-! ## ACK -/

section
variable {s : State} {p : HostId} {generation slot : Byte} {i : SlotId} {c : Copy}

theorem ackRule_of_unknown (hu : s.usable p = true) (h : s.resolve generation slot = none) :
    ackRule p [generation, slot] s = (s, bare .unknown) := by
  simp [ackRule, hu, h]

theorem ackRule_of_live (hu : s.usable p = true) (h : s.resolve generation slot = some i) :
    ackRule p [generation, slot] s =
      match s.copy? i p with
      | none => (s, bare .denied)
      | some c => ackCopy p i c s := by
  simp only [ackRule, hu, h] <;> rfl

theorem ackRule_of_no_copy (hu : s.usable p = true) (h : s.resolve generation slot = some i) (hc : s.copy? i p = none) :
    ackRule p [generation, slot] s = (s, bare .denied) := by
  rw [ackRule_of_live hu h, hc]

theorem ackRule_of_copy (hu : s.usable p = true) (h : s.resolve generation slot = some i) (hc : s.copy? i p = some c) :
    ackRule p [generation, slot] s = ackCopy p i c s := by
  rw [ackRule_of_live hu h, hc]

theorem ackCopy_of_offered (hc : c.state = .pending ∨ c.state = .parked) : ackCopy p i c s = (s, bare .nottaken) := by
  unfold ackCopy
  rcases hc with hc | hc <;> rw [hc]

theorem ackCopy_of_terminal (hc : c.state = .acked ∨ c.state = .expired ∨ c.state = .withdrawn) :
    ackCopy p i c s = (s, { result := .late, body := [byteOfCopyState c.state, 0] }) := by
  unfold ackCopy
  rcases hc with hc | hc | hc <;> rw [hc]

theorem ackCopy_of_covered (hc : c.state = .taken ∨ c.state = .overdue ∨ c.state = .stale)
    (htop : (s.deliv p).stack.head? ≠ some i) : ackCopy p i c s = (s, bare .order) := by
  have h : ((s.deliv p).stack.head? == some i) = false := by simpa using htop
  unfold ackCopy
  rcases hc with hc | hc | hc <;> rw [hc, h] <;> rfl

theorem ackCopy_of_top (htop : (s.deliv p).stack.head? = some i) :
    (c.state = .taken → ackCopy p i c s = (s.ackTaken p i c).ackAnswer i .ok .acked)
    ∧ (c.state = .overdue → ackCopy p i c s = (s.ackOverdue p i c).ackAnswer i .late .expired)
    ∧ (c.state = .stale → ackCopy p i c s = (s.ackStale p i c).ackAnswer i .late .withdrawn) := by
  have h : ((s.deliv p).stack.head? == some i) = true := by simpa using htop
  unfold ackCopy
  refine ⟨fun hc => ?_, fun hc => ?_, fun hc => ?_⟩ <;> rw [hc, h] <;> rfl

/-- The condition byte is that of the record which the judgement meets (R72). -/
theorem conditionByte_eq {condition : Byte} (hlive : (s.record? i).isSome = true)
    (h : ∀ r, s.record? i = some r →
      ((∃ h d, r.copy h = some d ∧ d.state.terminal = false) → condition = 0)
      ∧ ((∀ h d, r.copy h = some d → d.state.terminal = true) → condition = byteOfOutcome r.outcome)) :
    s.conditionByte i = condition := by
  obtain ⟨r, hr⟩ := Option.isSome_iff_exists.mp hlive
  obtain ⟨hopen, hdone⟩ := h r hr
  unfold State.conditionByte
  simp only [hr]
  cases hf : r.finished with
  | true => rw [hdone (finished_iff.mp hf)]; rfl
  | false => rw [hopen (finished_eq_false_iff.mp hf)]; rfl

theorem isSome_setCopy (s : State) (i : SlotId) (h : HostId) (d : Copy) :
    ((s.setCopy i h d).record? i).isSome = (s.record? i).isSome := by
  rw [record?_setCopy, if_pos rfl, Option.isSome_map]

theorem isSome_escalate (s : State) (i : SlotId) (h : HostId) :
    ((s.escalate i h).record? i).isSome = (s.record? i).isSome := by
  rcases escalate_cases s i h with he | ⟨r, f, hr, -, he⟩
  · rw [he]
  · rw [he, record?_of_store (wakeFor_store _ _ _), hr]
    show ((s.setRecord i _).record? i).isSome = _
    rw [record?_setRecord_same]
    rfl

theorem isSome_withdraw (s : State) (i : SlotId) : ((s.withdraw i).record? i).isSome = (s.record? i).isSome := by
  rw [record?_withdraw, Option.isSome_map]

theorem satisfy_eq {r : Record} (hr : s.record? i = some r) :
    s.satisfy i = if r.policy = .any then s.withdraw i else s := by
  simp only [State.satisfy, hr]

/-- The answer of an ACK that ends a copy, by the condition byte of the state that the judgement meets. -/
theorem ackAnswer_eq {x : State} {condition : Byte} (hx : x.conditionByte i = condition) (result : ResultCode) (y : CopyState) :
    x.ackAnswer i result y = (x.judge i, { result := result, body := [byteOfCopyState y, condition] }) := by
  rw [State.ackAnswer, hx]

/-- The top popped, written out (R70). -/
theorem popStack_eq {rest : List SlotId} (hk : (s.deliv p).stack = i :: rest) :
    s.popStack p = s.setDeliv p { s.deliv p with stack := rest, runningLevel := s.levelOf rest } := by
  unfold State.popStack
  rw [hk]
  rfl

end

/-- Settles O24: the answers of ACK's rule in the order of Table 4-3 up to order 7. -/
theorem ackEndsNothing : Obligations.AckEndsNothing := by
  rintro s w p generation slot hready rfl hu
  refine ⟨fun hno => exec_rowOf_of_ready (c := .ack) hready (ackRule_of_unknown hu (resolve_of_not_live hno)),
    fun i r hi hr hg => ?_⟩
  have hres := resolve_of_live hi hr hg
  have hcopy := copy?_of_record hr p
  refine ⟨fun hc => ?_, fun c hc => ⟨fun hx => ?_, fun hx => ?_, fun hx htop => ?_⟩⟩ <;>
    refine exec_rowOf_of_ready (c := .ack) hready ?_ <;> rw [hc] at hcopy
  · exact ackRule_of_no_copy hu hres hcopy
  · exact (ackRule_of_copy hu hres hcopy).trans (ackCopy_of_offered hx)
  · exact (ackRule_of_copy hu hres hcopy).trans (ackCopy_of_terminal hx)
  · exact (ackRule_of_copy hu hres hcopy).trans (ackCopy_of_covered hx htop)

/-- Settles O25: the copy at the top ends as its state says, and the answer reads the record before its retirement is judged. -/
theorem ackEndsTheTopCopy : Obligations.AckEndsTheTopCopy := by
  rintro s w x p generation slot condition i r c rest popped hready rfl hu hi hr hg hc hk rfl hcond
  have hcopy : (s.returnToRun p).copy? i p = some c := (copy?_of_record hr p).trans hc
  have hrule := ackRule_of_copy hu (resolve_of_live hi hr hg) hcopy
  obtain ⟨htaken, hoverdue, hstale⟩ := ackCopy_of_top (c := c) (i := i) (s := s.returnToRun p) (p := p) (by rw [hk]; rfl)
  have hlive : ((s.returnToRun p).record? i).isSome = true := by rw [hr]; rfl
  have hstack : ∀ d, (((s.returnToRun p).setCopy i p d).deliv p).stack = i :: rest := fun d => by rw [deliv_setCopy]; exact hk
  refine ⟨fun hx hxs => ?_, fun hx hxs => ?_, fun hx hxs => ?_⟩ <;>
    refine exec_rowOf_of_ready (c := .ack) hready (hrule.trans ?_)
  · have hpop := popStack_eq (hstack (c.ended .acked))
    have hrec : (((s.returnToRun p).setCopy i p (c.ended .acked)).popStack p).record? i = some (r.setCopy p (c.ended .acked)) := by
      rw [record?_of_store (popStack_store _ p), record?_setCopy, if_pos rfl, hr]
      rfl
    have hack : (s.returnToRun p).ackTaken p i c = x := by
      unfold State.ackTaken
      rw [satisfy_eq hrec, hxs, hpop]
      rfl
    have hsome : (x.record? i).isSome = true := by
      rw [← hack]
      unfold State.ackTaken
      rw [satisfy_eq hrec]
      split
      · rw [isSome_withdraw, hrec]; rfl
      · rw [hrec]; rfl
    rw [htaken hx, hack]
    exact ackAnswer_eq (conditionByte_eq hsome hcond) _ _
  · have hescalated : (((s.returnToRun p).setCopy i p (c.ended .expired)).escalate i p).deliv p
        = ((s.returnToRun p).setCopy i p (c.ended .expired)).deliv p := deliv_escalate_of_copy (copy?_setCopy_same hcopy _)
    have hack : (s.returnToRun p).ackOverdue p i c = x :=
      (popStack_eq (by rw [hescalated]; exact hstack _)).trans hxs.symm
    have hsome : (x.record? i).isSome = true := by
      rw [← hack]
      unfold State.ackOverdue
      rw [record?_of_store (popStack_store _ p), isSome_escalate, isSome_setCopy, hlive]
    rw [hoverdue hx, hack]
    exact ackAnswer_eq (conditionByte_eq hsome hcond) _ _
  · have hack : (s.returnToRun p).ackStale p i c = x := (popStack_eq (hstack _)).trans hxs.symm
    have hsome : (x.record? i).isSome = true := by
      rw [← hack]
      unfold State.ackStale
      rw [record?_of_store (popStack_store _ p), isSome_setCopy, hlive]
    rw [hstale hx, hack]
    exact ackAnswer_eq (conditionByte_eq hsome hcond) _ _

/-! ## Retirement -/

section
variable {s : State} {i : SlotId} {r : Record}

theorem judge_of_unfinished (hr : s.record? i = some r) (hf : r.finished = false) : s.judge i = s := by
  simp [State.judge, hr, hf]

theorem judge_of_finished (hr : s.record? i = some r) (hf : r.finished = true) : s.judge i = s.retire i r := by
  simp [State.judge, hr, hf]

/-- With nothing waiting there is nothing to hand freed capacity to (R54). -/
theorem handoff_of_empty (hw : s.waitList = []) : s.handoff = s := by
  unfold State.handoff
  rw [hw]
  rfl

theorem offerFreed_lines (s : State) (r : Record) : (s.offerFreed r).lines = s.lines := (offerFreed_kept s r).lines

theorem levelRecheck_of_present {n : LineId} (ha : (s.line n).config.mode.isActive (s.line n).qual.level = true)
    (hf : (s.line n).qual.firstPending = false) (hl : (s.route (lineSource n)).liveCount = 0) :
    s.levelRecheck n = s.admission (.line n) := by
  have hp : (s.line n).conditionPresent = true := conditionPresent_iff.mpr ⟨ha, hf⟩
  simp [State.levelRecheck, hp, hl]

theorem levelRecheck_of_absent {n : LineId}
    (h : (s.line n).config.mode.isActive (s.line n).qual.level = false ∨ (s.line n).qual.firstPending = true
      ∨ (s.route (lineSource n)).liveCount ≠ 0) : s.levelRecheck n = s := by
  refine if_neg fun hc => ?_
  rw [Bool.and_eq_true, conditionPresent_iff, beq_iff_eq] at hc
  obtain ⟨⟨ha, hf⟩, hl⟩ := hc
  rcases h with h | h | h
  · rw [h] at ha; cases ha
  · rw [h] at hf; cases hf
  · exact h hl

theorem lineSource_of_lineOfSource {n : SourceId} {l : LineId} (h : lineOfSource n = some l) : lineSource l = n := by
  unfold lineOfSource at h
  split at h
  · cases h; rfl
  · cases h

theorem lineOfSource_lineSource (l : LineId) : lineOfSource (lineSource l) = some l := by
  unfold lineOfSource lineSource
  rw [dif_pos l.isLt]

end

/-- Settles O26: a finished record is closed, its capacity offered and its line re-checked, in that order. -/
theorem finishedRecordsRetire : Obligations.FinishedRecordsRetire := by
  rintro s freed handed t i r hr rfl hfreed hhanded
  have hclose : s.closeRecord i r = freed := (closeRecord_eq s i r).trans hfreed.symm
  have hoffer : freed.offerFreed r = handed := hhanded.symm
  refine ⟨fun hopen => judge_of_unfinished hr (finished_eq_false_iff.mpr hopen), fun hdone => ?_⟩
  have hretire : s.judge i = handed.recheckLine r := by
    rw [judge_of_finished hr (finished_iff.mpr hdone), State.retire, hclose, hoffer]
  have hlines : ∀ l, handed.line l = s.line l := fun l => by
    unfold State.line
    rw [← hoffer, offerFreed_lines, ← hclose, (closeRecord_kept s i r).lines]
  refine ⟨fun hw => ?_, fun l hl ha hf hlive => ?_, fun hno => ?_⟩
  · have hfw : freed.waitList = [] := by rw [hfreed]; exact hw
    rw [hhanded, handoff_of_empty hfw, ite_self]
  · rw [hretire, State.recheckLine]
    simp only [hl]
    refine levelRecheck_of_present (by rw [hlines]; exact ha) (by rw [hlines]; exact hf) ?_
    rw [lineSource_of_lineOfSource hl]
    exact hlive
  · rw [hretire, State.recheckLine]
    split
    · rfl
    · next l hl =>
      refine levelRecheck_of_absent ?_
      rw [hlines, lineSource_of_lineOfSource hl]
      exact hno l hl

/-! ## Deadlines -/

/-- Settles O49: the copy's state chooses the expiry, and a copy without a running count at 0 has none. -/
theorem deadlineExpiryEndsTheTime : Obligations.DeadlineExpiryEndsTheTime := by
  intro s i h
  refine ⟨fun hno => congrArg (fun t : State => Host.Outcome.next t.driveLines) ?_, fun c hc hd => ⟨fun hx => ?_, fun hx => ?_⟩⟩
  · unfold State.deadlineExpiry
    split
    · rfl
    · next c hc =>
      refine if_neg fun hdue => ?_
      obtain ⟨hd, hx⟩ := deadlineDue_cases hdue
      rcases hno c hc with h1 | ⟨h1, h2⟩
      · exact h1 hd
      · exact hx.elim h1 h2
  · have hdue : c.deadlineDue = true := by simp [Copy.deadlineDue, hx, hd]
    refine congrArg (fun t : State => Host.Outcome.next t.driveLines) ?_
    have hq : ∀ d, (s.setCopy i h d).dequeue h i
        = (s.setCopy i h d).setDeliv h { s.deliv h with queue := (s.deliv h).queue.filter (fun x => x != i) } := fun d => by
      rw [State.dequeue, deliv_setCopy]
    simp only [State.deadlineExpiry, hc, hdue, hx, if_true, State.expirePending, hq]
    rfl
  · have hdue : c.deadlineDue = true := by simp [Copy.deadlineDue, hx, hd]
    refine congrArg (fun t : State => Host.Outcome.next t.driveLines) ?_
    simp only [State.deadlineExpiry, hc, hdue, hx, if_true]
    rfl

/-! ## DETAIL -/

section
variable {s : State} {p : HostId} {body : List Byte} {generation slot part : Byte} {i : SlotId} {r : Record}

theorem detailRule_of_bad_body (hu : s.usable p = true) (hb : body.length ≠ 3 ∨ 1 < (body.getD 2 0).toNat) :
    detailRule p body s = (s, bare .badarg) := by
  simp only [detailRule, hu, Bool.not_true, Bool.false_eq_true, if_false]
  split
  · next generation slot part =>
    have hpart : yesNoOf part = none := yesNoOf_eq_none.mpr (by simpa using hb)
    rw [hpart]
  · rfl

theorem detailRule_of_part {copies : Bool} (hu : s.usable p = true) (hp : yesNoOf part = some copies) :
    detailRule p [generation, slot, part] s =
      match s.resolve generation slot with
      | none => (s, bare .unknown)
      | some i => (s, okWith (s.detailPart i copies)) := by
  simp only [detailRule, hu, hp] <;> rfl

theorem detailRule_of_unknown {copies : Bool} (hu : s.usable p = true) (hp : yesNoOf part = some copies)
    (h : s.resolve generation slot = none) : detailRule p [generation, slot, part] s = (s, bare .unknown) := by
  rw [detailRule_of_part hu hp, h]

theorem detailRule_of_live {copies : Bool} (hu : s.usable p = true) (hp : yesNoOf part = some copies)
    (h : s.resolve generation slot = some i) :
    detailRule p [generation, slot, part] s = (s, okWith (s.detailPart i copies)) := by
  rw [detailRule_of_part hu hp, h]

end

/-- One entry of the COPIES part, written out (R19). -/
theorem copyEntry_eq (c : Option Copy) : copyEntry c =
    match c with
    | none => [0, 0xFF, 0xFF, 0xFF, 0xFF]
    | some c =>
      [byteOfCopyState c.state + (if c.escalation = true then 0x80 else 0)]
        ++ (match c.state with
          | .overdue => [0, 0]
          | .pending => bytesRemaining c.deadline
          | .parked => bytesRemaining c.deadline
          | .taken => bytesRemaining c.deadline
          | _ => [0xFF, 0xFF])
        ++ (match c.state with
          | .overdue => bytesRemaining c.grace
          | _ => [0xFF, 0xFF]) := by
  cases c with
  | none => rfl
  | some c => cases hx : c.state <;> simp [copyEntry, Copy.deadlineBytes, Copy.graceBytes, hx] <;> rfl

/-- Settles O31: the answers of DETAIL's rule in the order of its checks, and the two parts written out. -/
theorem detailReportsTheRecord : Obligations.DetailReportsTheRecord := by
  rintro s w p body hready rfl
  refine ⟨fun hu => ?_, fun hu hb => ?_, fun generation slot part hu hb hpart => ⟨fun hno => ?_, fun i r tail hi hr hg ht => ⟨fun hp => ?_, fun hp => ?_⟩⟩⟩ <;>
    refine exec_rowOf_of_ready (c := .detail) hready ?_
  · exact rule_of_not_usable hu Cmd.noConfusion Cmd.noConfusion Cmd.noConfusion
  · exact detailRule_of_bad_body hu hb
  · rw [hb]
    exact detailRule_of_unknown hu (OfferQueues.yesNoOf_of_le_one hpart) (resolve_of_not_live hno)
  · rw [hb, hp]
    refine (detailRule_of_live (part := 0) (copies := false) hu rfl (resolve_of_live hi hr hg)).trans ?_
    have hbytes : (s.returnToRun p).detailPart i false = (s.returnToRun p).recordPart i r := by
      simp [State.detailPart, hr]
    rw [hbytes, State.recordPart, idBytes_of_resolve hi hg, ht]
    cases r.particulars with
    | system h => cases h <;> simp [okWith, recordFlags, recordTail, bytes16]
    | _ => simp [okWith, recordFlags, recordTail, bytes16]
  · rw [hb, hp]
    refine (detailRule_of_live (part := 1) (copies := true) hu rfl (resolve_of_live hi hr hg)).trans ?_
    have hbytes : (s.returnToRun p).detailPart i true = (s.returnToRun p).copiesPart i r := by
      simp [State.detailPart, hr]
    rw [hbytes, State.copiesPart, idBytes_of_resolve hi hg]
    refine congrArg (fun l => (s.returnToRun p, okWith ([generation, slot] ++ l))) ?_
    exact congrArg (fun f => allHosts.flatMap f) (funext fun h => copyEntry_eq (r.copy h))

end Sys2Proof.Proofs.Acknowledgement
end

section
/-! PROOFS. POST (R129 to R131), ROUTE_WRITE (R33 to R36) and the refusals of LINE_WRITE (R113, R120): the checks of each command in the
order of its table, and what the command does past them. -/

namespace Sys2Proof.Proofs.Writes

open Sys2Proof Sys2Proof.Machine Sys2Proof.Proofs.RecordLife Sys2Proof.Proofs.RouteTable Sys2Proof.Proofs.EventLines
  Sys2Proof.Proofs.OfferQueues Sys2Proof.Proofs.HostsAndReceipts Sys2Proof.Proofs.Encodings Sys2Proof.Proofs.HostCommands
  Sys2Proof.Proofs.Acknowledgement

/-! ## POST -/

theorem payloadOf_eq (hi lo : Byte) : payloadOf hi lo = hi ++ lo := by
  refine BitVec.eq_of_toNat_eq ?_
  have hlo := lo.isLt
  have hhi := hi.isLt
  rw [BitVec.toNat_append, ← Nat.shiftLeft_add_eq_or_of_lt hlo, Nat.shiftLeft_eq]
  simp only [payloadOf, be16, BitVec.toNat_ofNat]
  omega

theorem isSystem_of_mailbox {n : SourceId} (hn : 32 ≤ n.val) : isSystem n = false := by
  simp only [isSystem, Bool.and_eq_false_iff, decide_eq_false_iff_not]
  omega

section
variable {s : State} {p : HostId} {n : SourceId} {source hi lo request : Byte} {payload : BitVec 16} {receipt : Bool}

theorem postRule_of_bad_value (hu : s.usable p = true)
    (h : source.toNat < 32 ∨ 63 < source.toNat ∨ 1 < request.toNat) :
    postRule p [source, hi, lo, request] s = (s, bare .badarg) := by
  simp only [postRule, hu, Bool.not_true, Bool.false_eq_true, if_false]
  split
  · next n receipt hn hr =>
    have hval := sourceOf_eq_some.mp hn
    have h63 : ¬ 63 < source.toNat := fun h' => by rw [sourceOf_eq_none.mpr h'] at hn; cases hn
    have h1 : ¬ 1 < request.toNat := fun h' => by rw [yesNoOf_eq_none.mpr h'] at hr; cases hr
    exact if_pos (by omega)
  · rfl

theorem postRule_of_values (hu : s.usable p = true) (hn : n.val = source.toNat) (h32 : 32 ≤ n.val) (hr : request.toNat ≤ 1) :
    postRule p [source, hi, lo, request] s = postChecked p n (hi ++ lo) (decide (request = 1)) s := by
  simp only [postRule, hu, Bool.not_true, Bool.false_eq_true, if_false, sourceOf_eq_some.mpr hn, yesNoOf_of_le_one hr,
    if_neg (Nat.not_lt.mpr h32), payloadOf_eq]

theorem postChecked_of_disabled (h : (s.route n).config.enabled = false) :
    postChecked p n payload receipt s = (s, bare .disabled) := by
  simp [postChecked, h]

theorem postChecked_of_denied (he : (s.route n).config.enabled = true) (h : hostIn (s.route n).config.posters p = false) :
    postChecked p n payload receipt s = (s, bare .denied) := by
  simp [postChecked, he, h]

theorem postChecked_of_full (he : (s.route n).config.enabled = true) (hp : hostIn (s.route n).config.posters p = true)
    (h : (s.route n).config.depth ≤ (s.route n).liveCount) : postChecked p n payload receipt s = (s, bare .full) := by
  simp [postChecked, he, hp, h]

theorem receiptsFull_iff : s.receiptsFull p = true ↔ 8 ≤ (s.postUnit p).receipts.length + (s.postUnit p).reservations :=
  decide_eq_true_iff

theorem postChecked_of_rcptfull (he : (s.route n).config.enabled = true) (hp : hostIn (s.route n).config.posters p = true)
    (hd : (s.route n).liveCount < (s.route n).config.depth) (h : s.receiptsFull p = true) :
    postChecked p n payload true s = (s, bare .rcptfull) := by
  simp [postChecked, he, hp, Nat.not_le.mpr hd, h]

/-- Past order 6 of Table 8-3. -/
theorem postChecked_of_room (he : (s.route n).config.enabled = true) (hp : hostIn (s.route n).config.posters p = true)
    (hd : (s.route n).liveCount < (s.route n).config.depth) (h : (receipt && s.receiptsFull p) = false) :
    postChecked p n payload receipt s =
      match s.recipients (s.route n).config with
      | none => (s.setLastOutcome n .notarget, bare .notarget)
      | some (hosts, esc) =>
        match s.allocate? n with
        | none => (s, bare .noroom)
        | some i => (s.createPost p n i payload receipt hosts esc, okWith (s.idBytes i)) := by
  simp only [postChecked, he, hp, h, Nat.not_le.mpr hd, Bool.not_true, Bool.false_eq_true, if_false] <;> rfl

theorem receipt_fits (h : request = 1 → (s.postUnit p).receipts.length + (s.postUnit p).reservations < 8) :
    (decide (request = 1) && s.receiptsFull p) = false := by
  by_cases hr : request = 1
  · have := h hr
    rw [Bool.and_eq_false_iff]
    exact .inr (Bool.eq_false_iff.mpr fun hf => absurd (receiptsFull_iff.mp hf) (by omega))
  · rw [decide_eq_false hr, Bool.false_and]

end

/-- Settles O33: past its checks the command makes the record in the slot that the allocation takes. -/
theorem postMakesARecord : Obligations.PostMakesARecord := by
  rintro s w p n hi lo request i hosts fallbackOnly hready rfl hu h32 hreq he hp hd hroom hr hlive hi'
  obtain ⟨made, hc, heq⟩ := createPost_cases (s.returnToRun p) (p := p) (i := i) (hi ++ lo) (decide (request = 1)) hr
  have hval : n.val = (byte n.val).toNat := (toNat_byte (by omega)).symm
  have hrule := (postRule_of_values (hi := hi) (lo := lo) hu hval h32 hreq).trans (postChecked_of_room he hp hd (receipt_fits hroom))
  rw [recipients_eq_some.mpr hr, allocate?_general (isSystem_of_mailbox h32) hlive hi'] at hrule
  dsimp only at hrule
  simp only [decide_eq_true_eq] at hc heq
  refine ⟨made, hc, exec_rowOf_of_ready (c := .post) hready (hrule.trans ?_)⟩
  rw [heq]
  have hres : made.reserve p = made.setPostUnit p
      { (s.returnToRun p).postUnit p with reservations := ((s.returnToRun p).postUnit p).reservations + 1 } := by
    rw [State.reserve, postUnit_of_posts hc.posts]
  rw [hres]
  rfl

/-- Settles O34: each check of Table 8-3 in its order. -/
theorem postIsRefusedInOrder : Obligations.PostIsRefusedInOrder := by
  rintro s w p source hi lo request hready rfl hu
  refine ⟨fun hbad => exec_rowOf_of_ready (c := .post) hready (postRule_of_bad_value hu hbad), fun n hn h32 hreq => ?_⟩
  have hrule := postRule_of_values (hi := hi) (lo := lo) hu hn h32 hreq
  refine ⟨fun he => ?disabled, fun he => ⟨fun hp => ?denied, fun hp => ⟨fun hd => ?full, fun hd => ⟨fun h1 h8 => ?rcptfull,
    fun hroom => ⟨fun hno => ?notarget, fun hosts esc hr h44 => ?noroom⟩⟩⟩⟩⟩ <;>
    refine exec_rowOf_of_ready (c := .post) hready (hrule.trans ?_)
  case disabled => exact postChecked_of_disabled he
  case denied => exact postChecked_of_denied he hp
  case full => exact postChecked_of_full he hp hd
  case rcptfull =>
    rw [h1]
    exact postChecked_of_rcptfull he hp hd (receiptsFull_iff.mpr h8)
  case notarget =>
    rw [postChecked_of_room he hp hd (receipt_fits hroom), recipients_eq_none.mpr hno]
    rfl
  case noroom =>
    rw [postChecked_of_room he hp hd (receipt_fits hroom), recipients_eq_some.mpr hr]
    simp only [allocate?_full (isSystem_of_mailbox h32) h44]
    rfl

/-! ## The fields of a ROUTE_WRITE body -/

theorem yesNoOf_le {b : Byte} {x : Bool} (h : yesNoOf b = some x) : b.toNat ≤ 1 :=
  Nat.not_lt.mp fun hlt => by rw [yesNoOf_eq_none.mpr hlt] at h; cases h

theorem policyOf_le {b : Byte} {x : Policy} (h : policyOf b = some x) : b.toNat ≤ 1 := by
  unfold policyOf at h
  split at h
  · next hb => rw [hb]; decide
  · split at h
    · next hb => rw [hb]; decide
    · cases h

theorem hostSetOf_le {b : Byte} {x : HostSet} (h : hostSetOf b = some x) : b.toNat ≤ 15 := by
  unfold hostSetOf at h
  split at h
  · omega
  · cases h

theorem hostOf_le {b : Byte} {x : HostId} (h : hostOf b = some x) : b.toNat ≤ 3 := by
  rw [← hostOf_eq_some.mp h]
  omega

theorem optHostOf_le {b : Byte} {x : Option HostId} (h : optHostOf b = some x) : b.toNat ≤ 3 ∨ b = 0xFF := by
  unfold optHostOf at h
  split at h
  · next hb => exact .inr hb
  · split at h
    · cases h
    · next hb => exact .inl (hostOf_le hb)

theorem modeOf_le {b : Byte} {x : Mode} (h : modeOf b = some x) : b.toNat ≤ 5 := by
  unfold modeOf at h
  split at h
  case h_7 => cases h
  all_goals omega

theorem periodOf_le {b : Byte} {x : Period} (h : periodOf b = some x) : b.toNat ≤ 2 := by
  unfold periodOf at h
  split at h
  case h_4 => cases h
  all_goals omega

/-- The fields of a body that reads as a configuration are each in their encodings (Table 2-2, order 6). -/
theorem bounds_of_routeConfigOf {enabled owner targets priority policy depth dHi dLo fallback deepWake posters : Byte}
    {c : RouteConfig}
    (h : routeConfigOf enabled owner targets priority policy depth dHi dLo fallback deepWake posters = some c) :
    1 ≤ priority.toNat ∧ priority.toNat ≤ 15 ∧ 1 ≤ depth.toNat ∧ depth.toNat ≤ 4 ∧ dHi.toNat * 256 + dLo.toNat ≤ 1000
      ∧ owner.toNat ≤ 3 ∧ (fallback.toNat ≤ 3 ∨ fallback = 0xFF) ∧ targets.toNat ≤ 15 ∧ posters.toNat ≤ 15
      ∧ enabled.toNat ≤ 1 ∧ policy.toNat ≤ 1 ∧ deepWake.toNat ≤ 1 := by
  simp only [routeConfigOf, Option.bind_eq_bind, Option.bind_eq_some_iff, Option.pure_def, Option.some.injEq,
    rangeOf_eq_some, timeOf_eq_some] at h
  obtain ⟨_, he, _, ho, _, ht, _, ⟨rfl, hp⟩, _, hy, _, ⟨rfl, hd⟩, _, ⟨rfl, hm⟩, _, hf, _, hw, _, hs, -⟩ := h
  exact ⟨hp.1, hp.2, hd.1, hd.2, hm.2, hostOf_le ho, optHostOf_le hf, hostSetOf_le ht, hostSetOf_le hs, yesNoOf_le he,
    policyOf_le hy, yesNoOf_le hw⟩

theorem bounds_of_lineConfigOf {mode period q group : Byte} {c : LineConfig} (h : lineConfigOf mode period q group = some c) :
    mode.toNat ≤ 5 ∧ period.toNat ≤ 2 ∧ 1 ≤ q.toNat ∧ q.toNat ≤ 15 ∧ (group.toNat ≤ 3 ∨ group = 0xFF) := by
  simp only [lineConfigOf, Option.bind_eq_bind, Option.bind_eq_some_iff, Option.pure_def, Option.some.injEq,
    rangeOf_eq_some] at h
  obtain ⟨_, hm, _, hp, _, ⟨rfl, hq⟩, _, hg, -⟩ := h
  exact ⟨modeOf_le hm, periodOf_le hp, hq.1, hq.2, optHostOf_le hg⟩

/-! ## ROUTE_WRITE -/

section
variable {s : State} {p : HostId} {n : SourceId} {c : RouteConfig}
  {source enabled owner targets priority policy depth dHi dLo fallback deepWake posters : Byte}

theorem mayEdit_eq_false (ho : (s.route n).config.owner ≠ p) (ha : s.administrator ≠ p) : s.mayEdit p n = false := by
  rw [← Bool.not_eq_true, mayEdit_iff]
  exact fun h => h.elim ho ha

theorem routeWriteRule_of_bad_source (hu : s.usable p = true) (h : 63 < source.toNat) :
    routeWriteRule p [source, enabled, owner, targets, priority, policy, depth, dHi, dLo, fallback, deepWake, posters] s
      = (s, bare .badarg) := by
  simp only [routeWriteRule, hu, sourceOf_eq_none.mpr h]
  rfl

/-- Orders 3 to 5 of Table 2-2 in one: who may not write the route. -/
theorem routeWriteRule_of_denied (hu : s.usable p = true) (hn : n.val = source.toNat)
    (h : s.mayEdit p n = false ∨ (owner ≠ byte (s.route n).config.owner.val ∧ p ≠ s.administrator)
      ∨ (isSystem n = true ∧ p ≠ s.administrator)) :
    routeWriteRule p [source, enabled, owner, targets, priority, policy, depth, dHi, dLo, fallback, deepWake, posters] s
      = (s, bare .denied) := by
  simp only [routeWriteRule, hu, sourceOf_eq_some.mpr hn, Bool.not_true, Bool.false_eq_true, if_false]
  split
  · rfl
  · next hedit =>
    split
    · rfl
    · next howner =>
      rw [if_pos]
      rcases h with h | h | h
      · simp [h] at hedit
      · exact absurd h howner
      · exact h

/-- Past order 5 of Table 2-2. -/
theorem routeWriteRule_of_permitted (hu : s.usable p = true) (hn : n.val = source.toNat) (hedit : s.mayEdit p n = true)
    (howner : ¬ (owner ≠ byte (s.route n).config.owner.val ∧ p ≠ s.administrator))
    (hsys : ¬ (isSystem n = true ∧ p ≠ s.administrator)) :
    routeWriteRule p [source, enabled, owner, targets, priority, policy, depth, dHi, dLo, fallback, deepWake, posters] s =
      match routeConfigOf enabled owner targets priority policy depth dHi dLo fallback deepWake posters with
      | none => (s, bare .badarg)
      | some c => routeWriteChecked n c s := by
  simp only [routeWriteRule, hu, sourceOf_eq_some.mpr hn, hedit, if_neg howner, if_neg hsys] <;> rfl

theorem routeWriteChecked_of_posters (hp : c.posters ≠ 0) (hn : n.val < 32) :
    routeWriteChecked n c s = (s, bare .badarg) := if_pos ⟨hp, hn⟩

theorem routeWriteChecked_of_system (hn : isSystem n = true) (h : c.depth ≠ 1 ∨ c.owner ≠ s.administrator) :
    routeWriteChecked n c s = (s, bare .badarg) := by
  unfold routeWriteChecked
  split
  · rfl
  · split
    · rfl
    · next hd =>
      refine if_pos ⟨hn, h.resolve_left fun hd' => hd ⟨hn, hd'⟩⟩

theorem routeWriteChecked_of_level (hp : c.posters = 0) (hn : isSystem n = false) (hl : s.levelLineSource n = true)
    (hd : 1 < c.depth) : routeWriteChecked n c s = (s, bare .conflict) := by
  simp [routeWriteChecked, hp, hn, hl, hd]

theorem routeWriteChecked_of_legal (hp : n.val < 32 → c.posters = 0)
    (hs : isSystem n = true → c.depth = 1 ∧ c.owner = s.administrator) (hl : s.levelLineSource n = true → c.depth = 1) :
    routeWriteChecked n c s = (s.writeRoute n c, bare .ok) := by
  have h1 : ¬ (c.posters ≠ 0 ∧ n.val < 32) := fun h => h.1 (hp h.2)
  have h2 : ¬ (isSystem n = true ∧ c.depth ≠ 1) := fun h => h.2 (hs h.1).1
  have h3 : ¬ (isSystem n = true ∧ c.owner ≠ s.administrator) := fun h => h.2 (hs h.1).2
  have h4 : ¬ (s.levelLineSource n = true ∧ 1 < c.depth) := fun h => by have := hl h.1; omega
  rw [routeWriteChecked, if_neg h1, if_neg h2, if_neg h3, if_neg h4]

theorem levelLineSource_of_line {l : LineId} (hl : lineOfSource n = some l) :
    s.levelLineSource n = (s.line l).config.mode.isLevel := by
  simp only [State.levelLineSource, hl]

theorem levelLineSource_imp {P : Prop} (h : ∀ l, lineOfSource n = some l → (s.line l).config.mode.isLevel = true → P)
    (hl : s.levelLineSource n = true) : P := by
  cases hs : lineOfSource n with
  | none => simp [State.levelLineSource, hs] at hl
  | some l => exact h l hs (by rwa [← levelLineSource_of_line hs])

theorem not_system_of_line {l : LineId} (hl : lineOfSource n = some l) : isSystem n = false := by
  have hval : n.val = l.val := by rw [← lineSource_of_lineOfSource hl]; rfl
  simp only [isSystem, Bool.and_eq_false_iff, decide_eq_false_iff_not]
  omega

/-- The write of the fields, written out (R34, R35). -/
theorem storeRoute_eq : s.storeRoute n c =
    { s.setRoute n { s.route n with config := c } with
      waitList :=
        if (s.route n).config.enabled = true ∧ c.enabled = false then s.waitList.filter (fun e => e.source != n)
        else s.waitList } := by
  unfold State.storeRoute
  cases (s.route n).config.enabled <;> cases c.enabled <;> rfl

/-- An enable makes the re-check of the line, and another write does not (R36). -/
theorem writeRoute_eq : s.writeRoute n c =
    if (s.route n).config.enabled = false ∧ c.enabled = true then (s.storeRoute n c).enableRearm n else s.storeRoute n c := by
  unfold State.writeRoute
  cases (s.route n).config.enabled <;> cases c.enabled <;> rfl

end

theorem owner_byte {b : Byte} {h : HostId} : b = byte h.val ↔ b.toNat = h.val := by
  rw [← BitVec.toNat_inj, toNat_byte (by omega)]

/-- Settles O37: each check of Table 2-2 in its order. -/
theorem routeWriteIsRefusedInOrder : Obligations.RouteWriteIsRefusedInOrder := by
  rintro s w p source enabled owner targets priority policy depth dHi dLo fallback deepWake posters body refusedWith rfl hready
    rfl hu rfl
  refine ⟨fun hbad => exec_rowOf_of_ready (c := .routeWrite) hready (routeWriteRule_of_bad_source hu hbad),
    fun n hn => ⟨fun hno => exec_rowOf_of_ready (c := .routeWrite) hready (routeWriteRule_of_denied hu hn ?denied),
      fun hright => ?_⟩⟩
  case denied =>
    rcases hno with ⟨ho, ha⟩ | ⟨ho, ha⟩ | ⟨hs, ha⟩
    · exact .inl (mayEdit_eq_false ho ha)
    · exact .inr (.inl ⟨fun h => ho (owner_byte.mp h), Ne.symm ha⟩)
    · exact .inr (.inr ⟨hs, Ne.symm ha⟩)
  have hedit : (s.returnToRun p).mayEdit p n = true := mayEdit_iff.mpr (hright.symm.imp_left And.left)
  have howner : ¬ (owner ≠ byte ((s.returnToRun p).route n).config.owner.val ∧ p ≠ (s.returnToRun p).administrator) := by
    rintro ⟨h1, h2⟩
    rcases hright with ha | ⟨ho, hp, -⟩
    · exact h2 ha.symm
    · exact h1 (owner_byte.mpr (by rw [ho]; exact hp))
  have hsys : ¬ (isSystem n = true ∧ p ≠ (s.returnToRun p).administrator) := by
    rintro ⟨h1, h2⟩
    rcases hright with ha | ⟨-, -, hs⟩
    · exact h2 ha.symm
    · rw [hs] at h1; cases h1
  have hrule := routeWriteRule_of_permitted (enabled := enabled) (targets := targets) (priority := priority) (policy := policy)
    (depth := depth) (dHi := dHi) (dLo := dLo) (fallback := fallback) (deepWake := deepWake) (posters := posters)
    hu hn hedit howner hsys
  refine ⟨fun hbad => ?_, fun c hbody hc => ?_⟩
  · refine exec_rowOf_of_ready (c := .routeWrite) hready (hrule.trans ?_)
    cases hcfg : routeConfigOf enabled owner targets priority policy depth dHi dLo fallback deepWake posters with
    | none => rfl
    | some c =>
      have h0 : ∀ b : Byte, b = 0 ↔ b.toNat = 0 := fun b => BitVec.toNat_inj.symm
      obtain ⟨h1, h2, h3, h4, h5, h6, h7, h8, h9, h10, h11, h12⟩ := bounds_of_routeConfigOf hcfg
      rw [h0, h0] at hbad
      have hfallback : ¬ (3 < fallback.toNat ∧ fallback ≠ 0xFF) := fun h => h7.elim (fun h' => absurd h.1 (by omega)) h.2
      simp only [hfallback, false_or] at hbad
      omega
  · simp only [routeWriteBody, List.cons.injEq, and_true] at hbody
    obtain ⟨rfl, rfl, rfl, rfl, rfl, rfl, rfl, rfl, rfl, rfl, rfl, rfl⟩ := hbody
    rw [routeConfigOf_bytes hc] at hrule
    refine ⟨fun hp => ?_, fun hs h => ?_, fun l hl hp hm hd => ?_⟩ <;>
      refine exec_rowOf_of_ready (c := .routeWrite) hready (hrule.trans ?_)
    · exact routeWriteChecked_of_posters hp.1 hp.2
    · exact routeWriteChecked_of_system hs h
    · exact routeWriteChecked_of_level hp (not_system_of_line hl) (by rw [levelLineSource_of_line hl]; exact hm) hd

theorem not_present_iff {active pending : Bool} {count : Nat} :
    ¬ (active = true ∧ pending = false ∧ count = 0) ↔ active = false ∨ pending = true ∨ count ≠ 0 := by
  cases active <;> cases pending <;> simp

theorem not_enable_iff {old new : Bool} : ¬ (old = false ∧ new = true) ↔ old = true ∨ new = false := by
  cases old <;> cases new <;> simp

/-- Settles O36: past its checks the write stores the fields, and an enable makes the re-check of the source's line. -/
theorem routeWriteReplacesEveryField : Obligations.RouteWriteReplacesEveryField := by
  rintro s w written p n c hready rfl hu hc hright hcede hsystem hposters hlevel hwritten
  have hstore : (s.returnToRun p).storeRoute n c = written := storeRoute_eq.trans hwritten.symm
  have hrule : routeWriteRule p (routeWriteBody n c) (s.returnToRun p) = ((s.returnToRun p).writeRoute n c, bare .ok) := by
    refine (routeWriteRule_of_permitted (n := n) hu (toNat_byte (by omega)).symm (mayEdit_iff.mpr hright) ?_ ?_).trans ?_
    · rintro ⟨h1, h2⟩
      exact h2 (hcede fun h => h1 (by rw [h])).symm
    · rintro ⟨h1, h2⟩
      exact h2 (hsystem h1).1.symm
    · rw [routeConfigOf_bytes hc]
      exact routeWriteChecked_of_legal hposters (fun h => (hsystem h).2) (levelLineSource_imp hlevel)
  have hexec := exec_rowOf_of_ready (c := .routeWrite) hready hrule
  have hlines : ∀ l, written.line l = (s.returnToRun p).line l := fun l => by rw [hwritten]; rfl
  have hlive : (written.route n).liveCount = ((s.returnToRun p).route n).liveCount := by
    rw [hwritten]
    show (((s.returnToRun p).setRoute n _).route n).liveCount = _
    rw [route_setRoute, if_pos rfl]
  rw [writeRoute_eq, hstore] at hexec
  by_cases hen : ((s.returnToRun p).route n).config.enabled = false ∧ c.enabled = true
  · rw [if_pos hen] at hexec
    cases hl : lineOfSource n with
    | none =>
      refine .inr ⟨fun l h => (nomatch h), ?_⟩
      have hrearm : written.enableRearm n = written := by simp only [State.enableRearm, hl]
      rw [hrearm] at hexec
      exact hexec
    | some l =>
      have hrearm : written.enableRearm n = written.levelRecheck l := by simp only [State.enableRearm, hl]
      have hsrc := lineSource_of_lineOfSource hl
      rw [hrearm] at hexec
      by_cases hactive : ((s.returnToRun p).line l).config.mode.isActive ((s.returnToRun p).line l).qual.level = true
          ∧ ((s.returnToRun p).line l).qual.firstPending = false ∧ ((s.returnToRun p).route n).liveCount = 0
      · obtain ⟨ha, hf, h0⟩ := hactive
        rw [levelRecheck_of_present (by rw [hlines]; exact ha) (by rw [hlines]; exact hf) (by rw [hsrc, hlive]; exact h0)] at hexec
        exact .inl ⟨l, rfl, hen.1, hen.2, ha, hf, h0, hexec⟩
      · have habsent : ((s.returnToRun p).line l).config.mode.isActive ((s.returnToRun p).line l).qual.level = false
            ∨ ((s.returnToRun p).line l).qual.firstPending = true ∨ ((s.returnToRun p).route n).liveCount ≠ 0 := by
          exact not_present_iff.mp hactive
        rw [levelRecheck_of_absent (by rw [hlines, hsrc, hlive]; exact habsent)] at hexec
        exact .inr ⟨fun l' h => .inr (.inr (Option.some.inj h ▸ habsent)), hexec⟩
  · rw [if_neg hen] at hexec
    refine .inr ⟨fun l _ => ?_, hexec⟩
    exact (not_enable_iff.mp hen).imp id .inl

/-! ## The refusals of LINE_WRITE -/

section
variable {s : State} {p : HostId} {n : LineId} {c : LineConfig} {line mode period q group : Byte}

theorem lineWriteRule_of_bad_line (hu : s.usable p = true) (h : 23 < line.toNat) :
    lineWriteRule p [line, mode, period, q, group] s = (s, bare .badarg) := by
  simp only [lineWriteRule, hu, lineOf_eq_none.mpr h]
  rfl

theorem lineWriteRule_of_denied (hu : s.usable p = true) (hn : n.val = line.toNat)
    (h : s.mayEdit p (lineSource n) = false ∨ s.regroupRefused p n group = true) :
    lineWriteRule p [line, mode, period, q, group] s = (s, bare .denied) := by
  simp only [lineWriteRule, hu, lineOf_eq_some.mpr hn, Bool.not_true, Bool.false_eq_true, if_false]
  split
  · rfl
  · next hedit => exact if_pos (h.resolve_left fun h' => hedit (by rw [h']; rfl))

/-- Past order 4 of Table 6-3. -/
theorem lineWriteRule_of_permitted (hu : s.usable p = true) (hn : n.val = line.toNat) (hedit : s.mayEdit p (lineSource n) = true)
    (hregroup : s.regroupRefused p n group = false) :
    lineWriteRule p [line, mode, period, q, group] s =
      match lineConfigOf mode period q group with
      | none => (s, bare .badarg)
      | some c => lineWriteChecked n c s := by
  simp only [lineWriteRule, hu, lineOf_eq_some.mpr hn, hedit, hregroup] <;> rfl

theorem lineWriteRule_of_bad_field (hu : s.usable p = true) (hn : n.val = line.toNat) (hedit : s.mayEdit p (lineSource n) = true)
    (hregroup : s.regroupRefused p n group = false)
    (hbad : 5 < mode.toNat ∨ 2 < period.toNat ∨ q.toNat = 0 ∨ 15 < q.toNat ∨ (3 < group.toNat ∧ group ≠ 0xFF)) :
    lineWriteRule p [line, mode, period, q, group] s = (s, bare .badarg) := by
  rw [lineWriteRule_of_permitted hu hn hedit hregroup]
  cases hc : lineConfigOf mode period q group with
  | none => rfl
  | some c =>
    obtain ⟨h1, h2, h3, h4, h5⟩ := bounds_of_lineConfigOf hc
    exfalso
    rcases h5 with h5 | h5
    · omega
    · subst h5
      simp only [ne_eq, not_true_eq_false, and_false, or_false] at hbad
      omega

/-- A group value outside its encoding is no change of group for order 4 (R120). -/
theorem regroupRefused_of_bad_group (h3 : 3 < group.toNat) (hff : group ≠ 0xFF) : s.regroupRefused p n group = false := by
  have hg : groupOf group = none := by
    cases hg : groupOf group with
    | none => rfl
    | some g => exact absurd (optHostOf_le hg) fun h => h.elim (fun h => by omega) hff
  simp only [State.regroupRefused, hg]

theorem lineWriteChecked_of_conflict (hl : c.mode.isLevel = true)
    (h : c.group ≠ none ∨ 1 < (s.route (lineSource n)).config.depth) : lineWriteChecked n c s = (s, bare .conflict) := by
  unfold lineWriteChecked
  split
  · rfl
  · next hg => exact if_pos ⟨hl, h.resolve_left fun h' => hg ⟨hl, h'⟩⟩

theorem lineWriteChecked_of_full {g : GroupId} (hl : c.mode.isLevel = false) (hg : c.group = some g)
    (hne : c.group ≠ (s.line n).config.group) (hfull : 8 ≤ (s.members g).length) :
    lineWriteChecked n c s = (s, bare .full) := by
  have hno : ¬ c.mode.isLevel = true := by rw [hl]; exact Bool.false_ne_true
  have hf : s.groupFull (s.line n).config.group c.group = true := by
    rw [← Bool.not_eq_false, groupFull_eq_false]
    exact fun h => absurd (h g hg hne) (by omega)
  rw [lineWriteChecked, if_neg fun h => hno h.1, if_neg fun h => hno h.1, if_pos hf]

end

/-- Settles O40: each check of Table 6-3 in its order. -/
theorem lineWriteIsRefusedInOrder : Obligations.LineWriteIsRefusedInOrder := by
  rintro s w p line mode period q group body refusedWith owns rfl hready rfl hu rfl rfl
  simp only [← ownsGroup_iff]
  refine ⟨fun hbad => exec_rowOf_of_ready (c := .lineWrite) hready (lineWriteRule_of_bad_line hu hbad),
    fun n hn => ⟨fun hno => exec_rowOf_of_ready (c := .lineWrite) hready
      (lineWriteRule_of_denied hu hn (.inl (mayEdit_eq_false hno.1 hno.2))), fun hright => ⟨fun h3 hff => ?badGroup, fun g hg => ?_⟩⟩⟩
  case badGroup =>
    exact exec_rowOf_of_ready (c := .lineWrite) hready (lineWriteRule_of_bad_field hu hn (mayEdit_iff.mpr hright)
      (regroupRefused_of_bad_group h3 hff) (.inr (.inr (.inr (.inr ⟨h3, hff⟩)))))
  refine ⟨fun hne ha hno => exec_rowOf_of_ready (c := .lineWrite) hready (lineWriteRule_of_denied hu hn (.inr ?regroup)),
    fun hmay => ?_⟩
  case regroup =>
    rw [hg, ← Bool.not_eq_false, regroupRefused_byteOfGroup_eq_false, mayRegroup_iff]
    exact fun h => (h hne).elim ha hno
  have hregroup : (s.returnToRun p).regroupRefused p n group = false := by
    rw [hg, regroupRefused_byteOfGroup_eq_false, mayRegroup_iff]
    exact hmay
  refine ⟨fun hbad => exec_rowOf_of_ready (c := .lineWrite) hready
    (lineWriteRule_of_bad_field hu hn (mayEdit_iff.mpr hright) hregroup ?badField), fun c hbody hc => ?_⟩
  case badField =>
    have h0 : q = 0 ↔ q.toNat = 0 := BitVec.toNat_inj.symm
    rw [h0] at hbad
    tauto
  simp only [lineWriteBody, List.cons.injEq, and_true] at hbody
  obtain ⟨rfl, rfl, rfl, rfl, rfl⟩ := hbody
  have hrule := lineWriteRule_of_permitted (mode := byteOfMode c.mode) (period := byteOfPeriod c.period) (q := byte c.q)
    hu hn (mayEdit_iff.mpr hright) hregroup
  rw [lineConfigOf_bytes hc] at hrule
  exact ⟨fun hl h => exec_rowOf_of_ready (c := .lineWrite) hready (hrule.trans (lineWriteChecked_of_conflict hl h)),
    fun hl k hk hne hfull => exec_rowOf_of_ready (c := .lineWrite) hready
      (hrule.trans (lineWriteChecked_of_full hl hk hne hfull))⟩

end Sys2Proof.Proofs.Writes
end

section
/-! PROOFS. Admission (R44 to R52) and the wait-list handoff (R54 to R56): each step of the admission sequence, and each round of the
handoff, as an equation. -/

namespace Sys2Proof.Proofs.Admission

open Sys2Proof Sys2Proof.Machine Sys2Proof.Proofs.RecordLife

/-! ## The admission of one raw event -/

section
variable {s : State} {ev : RawEvent} {n : SourceId} {i : SlotId}

/-- POOLWAIT is raised only where the wait list was empty and is not after the raw event (R49). -/
theorem admission_of_waitList (h : s.waitList ≠ [] ∨ (s.admitOne ev).waitList = []) : s.admission ev = s.admitOne ev := by
  unfold State.admission
  refine if_neg fun hc => ?_
  rw [Bool.and_eq_true, Bool.not_eq_true'] at hc
  obtain ⟨h1, h2⟩ := hc
  rcases h with h | h
  · exact h (List.isEmpty_iff.mp h1)
  · rw [h] at h2; cases h2

/-- A raw event that leaves the wait list raises no POOLWAIT. -/
theorem admission_of_same (h : (s.admitOne ev).waitList = s.waitList) : s.admission ev = s.admitOne ev := by
  refine admission_of_waitList ?_
  rw [h]
  exact (em _).symm

theorem admitOne_of_disabled (h : (s.route ev.source).config.enabled = false) : s.admitOne ev = s := by
  simp [State.admitOne, h]

theorem admitOne_of_enabled (h : (s.route ev.source).config.enabled = true) : s.admitOne ev = s.admitEnabled ev := if_pos h

theorem isGroup_groupSource (g : GroupId) : isGroup (groupSource g) = true := by
  revert g
  decide

theorem holdsSource_iff : s.holdsSource n i = true ↔ ∃ r, s.record? i = some r ∧ r.source = n := by
  unfold State.holdsSource
  cases s.record? i <;> simp

theorem mem_slotsOf : i ∈ s.slotsOf n ↔ ∃ r, s.record? i = some r ∧ r.source = n := by
  simp [State.slotsOf, holdsSource_iff]

theorem isOpenAt_of_record {r : Record} (hr : s.record? i = some r) : s.isOpenAt i = r.isOpen := by
  simp only [State.isOpenAt, hr]

theorem openRecord?_eq_none (h : ∀ i r, s.record? i = some r → r.source = n → r.isOpen = false) : s.openRecord? n = none := by
  refine List.find?_eq_none.mpr fun i hi => ?_
  obtain ⟨r, hr, hn⟩ := mem_slotsOf.mp hi
  rw [isOpenAt_of_record hr, h i r hr hn]
  exact Bool.false_ne_true

/-- The one open record of a source is the one that a member edge merges into (R45). -/
theorem openRecord?_eq_some {r : Record} (hr : s.record? i = some r) (hn : r.source = n) (ho : r.isOpen = true)
    (honly : ∀ j r', s.record? j = some r' → r'.source = n → r'.isOpen = true → j = i) : s.openRecord? n = some i := by
  have hsome : ((s.slotsOf n).find? s.isOpenAt).isSome = true :=
    List.find?_isSome.mpr ⟨i, mem_slotsOf.mpr ⟨r, hr, hn⟩, (isOpenAt_of_record hr).trans ho⟩
  obtain ⟨j, hj⟩ := Option.isSome_iff_exists.mp hsome
  obtain ⟨r', hr', hn'⟩ := mem_slotsOf.mp (List.mem_of_find?_eq_some hj)
  have ho' := List.find?_some hj
  rw [isOpenAt_of_record hr'] at ho'
  rw [State.openRecord?, hj, honly j r' hr' hn' ho']

/-- With no open record of its source a raw event goes on at step 3 (R45). -/
theorem admitOne_of_closed (he : (s.route ev.source).config.enabled = true)
    (h : isGroup ev.source = true → ∀ i r, s.record? i = some r → r.source = ev.source → r.isOpen = false) :
    s.admitOne ev = s.admitClosed ev := by
  rw [admitOne_of_enabled he]
  cases ev with
  | group g m =>
    have hno : s.openRecord? (groupSource g) = none := openRecord?_eq_none (h (isGroup_groupSource g))
    simp only [State.admitEnabled, hno]
  | line _ | reflost | hostlost _ | poolwait | hostback _ => rfl

theorem waits_eq_false (h : ∀ e ∈ s.waitList, e.source ≠ n) : s.waits n = false := by
  simpa [State.waits] using h

theorem waits_eq_true (h : ∃ e ∈ s.waitList, e.source = n) : s.waits n = true := by
  simpa [State.waits] using h

theorem admitClosed_of_waiting (h : ∃ e ∈ s.waitList, e.source = ev.source) : s.admitClosed ev = s.countWaiting ev :=
  if_pos (waits_eq_true h)

theorem admitClosed_of_depth (hw : ∀ e ∈ s.waitList, e.source ≠ ev.source)
    (hd : (s.route ev.source).config.depth ≤ (s.route ev.source).liveCount) : s.admitClosed ev = s.coalesce ev.source := by
  rw [State.admitClosed, waits_eq_false hw, if_pos hd]
  rfl

theorem admitClosed_of_room (hw : ∀ e ∈ s.waitList, e.source ≠ ev.source)
    (hd : (s.route ev.source).liveCount < (s.route ev.source).config.depth) : s.admitClosed ev = s.admitNew ev := by
  rw [State.admitClosed, waits_eq_false hw, if_neg (Nat.not_le.mpr hd)]
  rfl

theorem admitNew_of_no_recipient (h : NoRecipient s (s.route ev.source).config) :
    s.admitNew ev = s.setLastOutcome ev.source .notarget := by
  simp only [State.admitNew, recipients_eq_none.mpr h]

theorem admitNew_of_refused {hosts : List HostId} {esc : Bool} (h : Recipients s (s.route ev.source).config hosts esc)
    (ha : s.allocate? ev.source = none) : s.admitNew ev = s.joinWaitList ev := by
  simp only [State.admitNew, recipients_eq_some.mpr h, ha]

theorem admitNew_of_allocated {hosts : List HostId} {esc : Bool} (h : Recipients s (s.route ev.source).config hosts esc)
    (ha : s.allocate? ev.source = some i) :
    s.admitNew ev = s.createRecord i (s.newRecord ev.source ev.particulars false 0) hosts esc := by
  simp only [State.admitNew, recipients_eq_some.mpr h, ha]

/-! ## The newest record -/

theorem newer_of_records {j : SlotId} {a b : Record} (ha : s.record? i = some a) (hb : s.record? j = some b) :
    s.newer i j = if a.birth < b.birth then j else i := by
  simp only [State.newer, ha, hb]

/-- The record born after every other of its source is the one that the search over their slots keeps (R47). -/
theorem foldl_newer {r : Record} (hr : s.record? i = some r)
    (hmax : ∀ j r', j ≠ i → s.record? j = some r' → r'.source = n → r'.birth < r.birth) (l : List SlotId) (acc : SlotId)
    (hl : ∀ j ∈ acc :: l, ∃ r', s.record? j = some r' ∧ r'.source = n) (hi : i ∈ acc :: l) : l.foldl s.newer acc = i := by
  induction l generalizing acc with
  | nil => exact (List.mem_singleton.mp hi).symm
  | cons j js ih =>
    obtain ⟨a, ha, hna⟩ := hl acc List.mem_cons_self
    obtain ⟨b, hb, hnb⟩ := hl j (List.mem_cons_of_mem _ List.mem_cons_self)
    have hnewer := newer_of_records ha hb
    rw [List.foldl_cons]
    refine ih _ (fun k hk => ?_) ?_
    · rcases List.mem_cons.mp hk with rfl | hk
      · rw [hnewer]
        split
        · exact ⟨b, hb, hnb⟩
        · exact ⟨a, ha, hna⟩
      · exact hl k (List.mem_cons_of_mem _ (List.mem_cons_of_mem _ hk))
    · by_cases hacc : acc = i
      · subst hacc
        rw [hr] at ha
        cases ha
        have hle : ¬ r.birth < b.birth := by
          by_cases hj : j = acc
          · subst hj
            rw [hr] at hb
            cases hb
            omega
          · have := hmax j b hj hb hnb
            omega
        rw [hnewer, if_neg hle]
        exact List.mem_cons_self
      · by_cases hj : j = i
        · subst hj
          rw [hr] at hb
          cases hb
          rw [hnewer, if_pos (hmax acc a hacc ha hna)]
          exact List.mem_cons_self
        · refine List.mem_cons_of_mem _ ?_
          rcases List.mem_cons.mp hi with h | h
          · exact absurd h.symm hacc
          · exact (List.mem_cons.mp h).resolve_left fun h => hj h.symm

theorem newest?_eq_some {r : Record} (hr : s.record? i = some r) (hn : r.source = n)
    (hmax : ∀ j r', j ≠ i → s.record? j = some r' → r'.source = n → r'.birth < r.birth) : s.newest? n = some i := by
  have hi : i ∈ s.slotsOf n := mem_slotsOf.mpr ⟨r, hr, hn⟩
  have hl : ∀ j ∈ s.slotsOf n, ∃ r', s.record? j = some r' ∧ r'.source = n := fun j hj => mem_slotsOf.mp hj
  unfold State.newest?
  generalize s.slotsOf n = l at hi hl
  cases l with
  | nil => cases hi
  | cons acc l => exact congrArg some (foldl_newer hr hmax l acc hl hi)

theorem modifyRecord_of_record {r : Record} (hr : s.record? i = some r) (f : Record → Record) :
    s.modifyRecord i f = s.setRecord i (f r) := by
  simp only [State.modifyRecord, hr]

theorem modifyRecord_waitList (s : State) (i : SlotId) (f : Record → Record) : (s.modifyRecord i f).waitList = s.waitList := by
  unfold State.modifyRecord
  split <;> rfl

theorem coalesce_waitList (s : State) (n : SourceId) : (s.coalesce n).waitList = s.waitList := by
  unfold State.coalesce
  split
  · rfl
  · exact modifyRecord_waitList s _ _

end

/-- Settles O43: the event discarded, coalesced into the newest record, or served NOTARGET; none of them changes the wait list. -/
theorem admissionWithoutARecord : Obligations.AdmissionWithoutARecord := by
  rintro s ev n rfl
  refine ⟨fun hd => ?_, fun he hw hopen => ⟨fun i r hd hr hn hmax => ?_, fun hd hno => ?_⟩⟩
  · have hone := admitOne_of_disabled hd
    rw [admission_of_same (by rw [hone]), hone]
  · have hone : s.admitOne ev = s.coalesce ev.source := (admitOne_of_closed he hopen).trans (admitClosed_of_depth hw hd)
    rw [admission_of_same (by rw [hone, coalesce_waitList]), hone, State.coalesce, newest?_eq_some hr hn hmax]
    exact modifyRecord_of_record hr _
  · have hone : s.admitOne ev = s.setLastOutcome ev.source .notarget :=
      (admitOne_of_closed he hopen).trans ((admitClosed_of_room hw hd).trans (admitNew_of_no_recipient hno))
    rw [admission_of_same (by rw [hone]; rfl), hone]
    rfl

/-! ## Events counted into what stands -/

theorem mergeMember_eq (m : LineId) (members : List LineId) (repeats : Nat) :
    mergeMember m members repeats =
      if m ∉ members ∧ members.length < 8 then (members ++ [m], repeats)
      else (members, if repeats < 255 then repeats + 1 else repeats) := by
  have hcap : Config.memberCapacity = 8 := rfl
  unfold mergeMember
  by_cases hm : m ∈ members
  · simp [hm]
    rfl
  · simp [hm, hcap]
    rfl

/-- Settles O44: the merge into an open record, and the counts of a wait entry. -/
theorem admissionIntoWhatStands : Obligations.AdmissionIntoWhatStands := by
  rintro s merge hmerge
  have hm : mergeMember = merge := by
    rw [hmerge]
    funext m members repeats
    exact mergeMember_eq m members repeats
  refine ⟨fun g m i r members he hr hn hk honly => ?_, fun g m he hw hopen => ?_, fun l he hw => ?_⟩
  · have ho : r.isOpen = true := by simp only [Record.isOpen, hk]
    have hone : s.admitOne (.group g m) = s.modifyRecord i (fun r => r.merge m) := by
      rw [admitOne_of_enabled he]
      simp only [State.admitEnabled, openRecord?_eq_some hr hn ho honly]
    rw [admission_of_same (by rw [hone, modifyRecord_waitList]), hone, modifyRecord_of_record hr, ← hm]
    simp only [Record.merge, hk]
  · have hone : s.admitOne (.group g m) = s.countWaiting (.group g m) :=
      (admitOne_of_closed he fun _ => hopen).trans (admitClosed_of_waiting hw)
    rw [admission_of_waitList (.inl fun hnil => by rw [hnil] at hw; simp at hw), hone, ← hm]
    unfold State.countWaiting
    simp only [WaitEntry.count, RawEvent.source, beq_iff_eq]
  · have hline : isGroup (lineSource l) = true → ∀ i r, s.record? i = some r → r.source = lineSource l → r.isOpen = false := by
      intro hg
      have hval : (lineSource l).val = l.val := rfl
      simp only [isGroup, Bool.and_eq_true, decide_eq_true_eq] at hg
      omega
    have hone : s.admitOne (.line l) = s.countWaiting (.line l) :=
      (admitOne_of_closed (ev := .line l) he hline).trans (admitClosed_of_waiting hw)
    rw [admission_of_waitList (.inl fun hnil => by rw [hnil] at hw; simp at hw), hone]
    unfold State.countWaiting
    congr 1
    refine List.map_congr_left fun e _ => ?_
    by_cases hsrc : e.source = lineSource l
    · simp only [RawEvent.source, hsrc, beq_self_eq_true, if_true, ne_eq, not_true_eq_false, if_false, WaitEntry.count]
      by_cases hroom : (s.route (lineSource l)).liveCount + e.pendingCount < (s.route (lineSource l)).config.depth
      · rw [if_pos hroom, if_pos (by omega)]
      · rw [if_neg hroom, if_neg (by omega)]
        rfl
    · have hbeq : (e.source == RawEvent.source (.line l)) = false := beq_eq_false_iff_ne.mpr hsrc
      simp only [hbeq, hsrc, ne_eq, not_false_eq_true, if_true]
      rfl

/-! ## Records made and entries that join the list -/

theorem allocate?_system {s : State} {n : SourceId} {i : SlotId} (hn : isSystem n = true)
    (hno : ∀ j r, s.record? j = some r → r.source ≠ n) (hi : LowestFree s i) : s.allocate? n = some i := by
  have hempty : s.slotsOf n = [] := List.eq_nil_iff_forall_not_mem.mpr fun j hj => by
    obtain ⟨r, hr, hsrc⟩ := mem_slotsOf.mp hj
    exact hno j r hr hsrc
  have hg : s.grants n = true := by
    unfold State.grants
    rw [hn, hempty]
    rfl
  rw [State.allocate?, if_pos hg]
  exact lowestFree_eq_some.mpr hi

theorem createRecord_waitList {s : State} {n : SourceId} {hosts : List HostId} {esc : Bool} {c : RouteConfig} (i : SlotId)
    (k : Particulars) (delayed : Bool) (repeats : Nat) (hr : Recipients s c hosts esc) :
    (s.createRecord i (s.newRecord n k delayed repeats) hosts esc).waitList = s.waitList :=
  (createRecord_created s i n k delayed repeats hosts esc hr.nodup hr.usable).waitList

/-- Settles O45: past step 5 the allocation decides between a record and a wait entry. -/
theorem admissionMakesARecordOrWaits : Obligations.AdmissionMakesARecordOrWaits := by
  rintro s ev n hosts esc rfl he hw hopen hd hr
  have hnew : s.admitOne ev = s.admitNew ev := (admitOne_of_closed he hopen).trans (admitClosed_of_room hw hd)
  refine ⟨fun i hgeneral hsystem hi => ?_, fun waiting hn hfull hwaiting => ?_⟩
  · have halloc : s.allocate? ev.source = some i := by
      cases hn : isSystem ev.source with
      | false => exact allocate?_general hn (hgeneral hn) hi
      | true => exact allocate?_system hn (hsystem hn) hi
    have hone := hnew.trans (admitNew_of_allocated hr halloc)
    rw [admission_of_same (by rw [hone]; exact createRecord_waitList i _ _ _ hr), hone]
    have hmade := createRecord_created s i ev.source ev.particulars false 0 hosts esc hr.nodup hr.usable
    cases ev <;> exact hmade
  · have hjoin : s.admitOne ev = waiting := by
      rw [hnew, admitNew_of_refused hr (allocate?_full hn hfull), State.joinWaitList, hn, hwaiting]
      cases ev <;> rfl
    have hne : waiting.waitList ≠ [] := by rw [hwaiting]; simp
    rw [admission_of_waitList (s := waiting) (.inl hne), State.admission, hjoin]
    by_cases hnil : s.waitList = []
    · rw [if_pos hnil, if_pos]
      simp [hnil, hne]
    · rw [if_neg hnil, if_neg]
      simp [hnil]

/-! ## The handoff -/

theorem handoffBound_cons (e : WaitEntry) (rest : List WaitEntry) :
    handoffBound (e :: rest) = (e.pendingCount + handoffBound rest) + 1 := by
  simp only [handoffBound, List.map_cons, List.sum_cons]
  omega

theorem handoffBound_requeue_le (rest : List WaitEntry) {e e' : WaitEntry} (h : e'.pendingCount = e.pendingCount - 1) :
    handoffBound (requeue rest e') ≤ e.pendingCount + handoffBound rest := by
  unfold requeue
  split
  · omega
  · simp only [handoffBound, List.map_append, List.sum_append, List.map_cons, List.map_nil, List.sum_cons, List.sum_nil]
    omega

/-- One round more than the bound serves nothing more. -/
theorem handoffRounds_succ (k : Nat) (s : State) (hk : handoffBound s.waitList ≤ k) :
    handoffRounds (k + 1) s = handoffRounds k s := by
  induction k generalizing s with
  | zero =>
    cases hw : s.waitList with
    | nil => simp only [handoffRounds, hw]
    | cons e rest =>
      rw [hw, handoffBound_cons] at hk
      omega
  | succ k ih =>
    rw [handoffRounds]
    conv_rhs => rw [handoffRounds]
    cases hw : s.waitList with
    | nil => rfl
    | cons e rest =>
      rw [hw, handoffBound_cons] at hk
      dsimp only
      split
      · exact ih { s with waitList := rest } (by show handoffBound rest ≤ k; omega)
      · split
        · refine ih { s.setLastOutcome e.source .notarget with waitList := requeue rest e.refused } ?_
          exact (handoffBound_requeue_le rest rfl).trans (by omega)
        · rfl

theorem handoffRounds_eq_handoff {k : Nat} {s : State} (hk : handoffBound s.waitList ≤ k) : handoffRounds k s = s.handoff := by
  induction k, hk using Nat.le_induction with
  | base => rfl
  | succ k hk ih => exact (handoffRounds_succ k s hk).trans ih

section
variable {s : State} {e : WaitEntry} {rest : List WaitEntry}

/-- An entry whose route is disabled or at its depth is dropped (R55). -/
theorem handoff_of_closed (hw : s.waitList = e :: rest)
    (h : (s.route e.source).config.enabled = false ∨ (s.route e.source).config.depth ≤ (s.route e.source).liveCount) :
    s.handoff = { s with waitList := rest }.handoff := by
  have hc : (!(s.route e.source).config.enabled
      || decide ((s.route e.source).config.depth ≤ (s.route e.source).liveCount)) = true := by
    rcases h with h | h <;> simp [h]
  rw [State.handoff, hw, handoffBound_cons, handoffRounds, hw]
  dsimp only
  rw [if_pos hc]
  refine handoffRounds_eq_handoff ?_
  show handoffBound rest ≤ _
  omega

/-- The handoff at an entry that its route admits. -/
theorem handoff_of_open (hw : s.waitList = e :: rest) (he : (s.route e.source).config.enabled = true)
    (hd : (s.route e.source).liveCount < (s.route e.source).config.depth) :
    s.handoff =
      match s.recipients (s.route e.source).config with
      | none => { s.setLastOutcome e.source .notarget with waitList := requeue rest e.refused }.handoff
      | some (hosts, esc) =>
        match s.allocate? e.source with
        | none => s
        | some i =>
          { s.createRecord i (s.newRecord e.source e.particulars true e.repeats) hosts esc with
            waitList := requeue rest e.transferred } := by
  have hc : ¬ (!(s.route e.source).config.enabled
      || decide ((s.route e.source).config.depth ≤ (s.route e.source).liveCount)) = true := by
    simp [he, hd]
  rw [State.handoff, hw, handoffBound_cons, handoffRounds, hw]
  dsimp only
  rw [if_neg hc]
  cases s.recipients (s.route e.source).config with
  | none => exact handoffRounds_eq_handoff (handoffBound_requeue_le rest rfl)
  | some x => rfl

end

/-- Settles O30: the first entry dropped, served NOTARGET, or served with a record. -/
theorem handoffServesTheWaitList : Obligations.HandoffServesTheWaitList := by
  rintro s e rest requeued hw rfl
  refine ⟨handoff_of_closed hw, fun he hd => ?_⟩
  have hopen := handoff_of_open hw he hd
  refine ⟨fun hno => ?_, fun i hosts esc hr hi hn h44 => ?_⟩
  · rw [hopen, recipients_eq_none.mpr hno]
    rfl
  · rw [recipients_eq_some.mpr hr, allocate?_general hn h44 hi] at hopen
    exact ⟨_, createRecord_created s i e.source e.particulars true e.repeats hosts esc hr.nodup hr.usable, hopen⟩

end Sys2Proof.Proofs.Admission
end

section
/-! PROOFS. Ticks, the reference clock and device reset (R105 to R108, R115, R122, R139, R158 to R162): what a millisecond tick lowers, how
the lines of a sample tick are taken, REFCLK supervision, and the state after reset. -/

namespace Sys2Proof.Proofs.Ticks

open Sys2Proof Sys2Proof.Machine Sys2Proof.Proofs.StepEffects Sys2Proof.Proofs.Configuration Sys2Proof.Proofs.RecordLife
  Sys2Proof.Proofs.QueueOrder Sys2Proof.Proofs.HostsAndReceipts Sys2Proof.Proofs.CopyLife

/-! ## The millisecond tick -/

theorem tick_eq (c : Copy) : c.tick =
    if c.state = .pending ∨ c.state = .taken then { c with deadline := c.deadline.map (fun k => k - 1) }
    else if c.state = .overdue then { c with grace := c.grace.map (fun k => k - 1) }
    else c := by
  cases hx : c.state <;> simp [Copy.tick, hx]

theorem copy?_millisecond (s : State) (i : SlotId) (h : HostId) : s.millisecond.copy? i h = (s.copy? i h).map Copy.tick := by
  unfold State.copy?
  rw [record?_millisecond]
  cases s.record? i with
  | none => rfl
  | some r => exact copy_tick r h

theorem hostTick_eq (x : HostRecord) : x.tick =
    { x with wakeTimer := if x.state = .waking then x.wakeTimer.map (fun k => k - 1) else x.wakeTimer } := by
  unfold HostRecord.tick
  split <;> rfl

theorem millisecond_sameRecords (s : State) : SameRecordsButCopies s s.millisecond := by
  have hslot : ∀ i, s.millisecond.slot i = _ := fun i => vget_vof _ i
  refine ⟨fun i => ⟨by rw [hslot], ?_⟩, rfl, rfl, rfl⟩
  rw [record?_millisecond, Option.map_map]
  rfl

/-- Settles O46: the tick writes the counts and the clock, and the driven lines are no part of the statement. -/
theorem millisecondTickCountsDown : Obligations.MillisecondTickCountsDown := by
  intro s
  refine ⟨_, rfl, rfl, fun i h => ?_, millisecond_sameRecords s, fun h => ?_, fun h => ?_, rfl, rfl, rfl, rfl, rfl, rfl⟩
  · rw [copy?_driveLines, copy?_millisecond, funext tick_eq]
  · rw [host_driveLines, host_millisecond, hostTick_eq]
    exact ⟨rfl, rfl, rfl, rfl⟩
  · rw [deliv_driveLines]
    exact ⟨rfl, rfl, rfl, rfl, rfl⟩

/-! ## One line sampled -/

theorem sampled_eq (l : Line) (b : Bool) : l.sampled b =
    { config := l.config
      qual :=
        if l.qual.firstPending = true then { lastSample := b, level := b, disagreement := 0, firstPending := false }
        else if b = l.qual.level then { lastSample := b, level := b, disagreement := 0, firstPending := false }
        else if l.qual.disagreement + 1 < l.config.q then
          { lastSample := b, level := l.qual.level, disagreement := l.qual.disagreement + 1, firstPending := false }
        else { lastSample := b, level := b, disagreement := 0, firstPending := false } } := by
  unfold Line.sampled
  cases hf : l.qual.firstPending with
  | true => simp
  | false =>
    by_cases hb : b = l.qual.level
    · simp [hf, ← hb]
    · by_cases hq : l.config.q ≤ l.qual.disagreement + 1
      · simp [hf, hb, hq, Nat.not_lt.mpr hq]
      · simp [hf, hb, hq, Nat.not_le.mp hq]

theorem qualifies_iff (l : Line) (b : Bool) : l.qualifies b = true ↔
    l.qual.firstPending = false ∧ b ≠ l.qual.level ∧ l.config.q ≤ l.qual.disagreement + 1 := by
  simp [Line.qualifies, and_assoc]

/-- A sample writes its own line and no other (R106). -/
theorem line_sampleLine (s : State) (n m : LineId) (b : Bool) :
    (s.sampleLine n b).line m = if m = n then (s.line n).sampled b else s.line m := by
  rw [line_congr (sampleLine_kept s n b).lines m, line_setLine]

theorem sampled_config (l : Line) (b : Bool) : (l.sampled b).config = l.config := rfl

theorem config_sampleLine (s : State) (n m : LineId) (b : Bool) :
    ((s.sampleLine n b).line m).config = (s.line m).config := by
  rw [line_sampleLine]
  split
  · next e => rw [e]; exact sampled_config _ b
  · rfl

/-- Line `n`'s mode names a change to level `b` as an edge (R107). -/
theorem names_iff (mode : Mode) (b : Bool) :
    mode.names b = true ↔ (mode = .rise ∧ b = true) ∨ (mode = .fall ∧ b = false) ∨ mode = .both := by
  cases mode <;> cases b <;> simp [Mode.names]

theorem isActive_iff (mode : Mode) (b : Bool) :
    mode.isActive b = true ↔ (mode = .high ∧ b = true) ∨ (mode = .low ∧ b = false) := by
  cases mode <;> cases b <;> simp [Mode.isActive]

theorem levelEvent_eq (s : State) (n : LineId) (b : Bool) : s.levelEvent n b =
    if (s.line n).config.mode.isActive b = true ∧ (s.route (lineSource n)).liveCount = 0 then s.admission (.line n) else s := by
  unfold State.levelEvent
  simp only [Bool.and_eq_true, beq_iff_eq]

theorem admission_edgeEvent (s : State) (n : LineId) : s.admission (s.edgeEvent n) =
    match (s.line n).config.group with
    | none => s.admission (.line n)
    | some g => s.admission (.group g n) := by
  unfold State.edgeEvent
  cases (s.line n).config.group <;> rfl

/-- The event of a sample, in the order of R107 and R108. -/
theorem sampleLine_eq {s u : State} {n : LineId} {b qualified : Bool} (hq : qualified = (s.line n).qualifies b)
    (hu : u = s.setLine n ((s.line n).sampled b)) :
    s.sampleLine n b =
      if qualified = true ∧ (s.line n).config.mode.names b = true then u.admission (u.edgeEvent n)
      else if (qualified = true ∨ (s.line n).qual.firstPending = true)
          ∧ (s.line n).config.mode.isActive b = true ∧ (s.route (lineSource n)).liveCount = 0 then u.admission (.line n)
      else u := by
  have hmode : (u.line n).config.mode = (s.line n).config.mode := by rw [hu, line_setLine_same]; rfl
  have hroute : (u.route (lineSource n)).liveCount = (s.route (lineSource n)).liveCount := by rw [hu]; rfl
  unfold State.sampleLine State.qualifiedChange
  rw [← hq, ← hu]
  dsimp only
  rw [levelEvent_eq, hmode, hroute]
  cases hf : (s.line n).qual.firstPending with
  | true =>
    have hno : qualified = false := by rw [hq, Line.qualifies, hf]; rfl
    simp [hno]
  | false =>
    cases qualified with
    | true => simp
    | false => simp

/-! ## The lines of a tick -/

/-- The lines that a tick samples, in the order in which it takes them (R122, log entry 3). -/
def tickLines (s : State) (period : Period) (order : List LineId) : List LineId :=
  (sampleOrder order).filter (s.sampledAt period)

theorem sampleOrder_nodup (order : List LineId) : (sampleOrder order).Nodup := by
  unfold sampleOrder
  refine List.nodup_append.mpr ⟨List.nodup_dedup order, (List.nodup_finRange 24).filter _, fun a ha b hb hab => ?_⟩
  subst hab
  have := (List.mem_filter.mp hb).2
  simp [List.mem_dedup.mp ha] at this

theorem mem_sampleOrder (order : List LineId) (n : LineId) : n ∈ sampleOrder order := by
  unfold sampleOrder
  by_cases h : n ∈ order <;> simp [h]

theorem tickLines_nodup (s : State) (period : Period) (order : List LineId) : (tickLines s period order).Nodup :=
  (sampleOrder_nodup order).filter _

theorem sampledAt_iff {s : State} {period : Period} {n : LineId} :
    s.sampledAt period n = true ↔ (s.line n).config.mode ≠ .off ∧ (s.line n).config.period = period := by
  simp [State.sampledAt]

theorem mem_tickLines {s : State} {period : Period} {order : List LineId} {n : LineId} :
    n ∈ tickLines s period order ↔ (s.line n).config.mode ≠ .off ∧ (s.line n).config.period = period := by
  simp [tickLines, mem_sampleOrder, sampledAt_iff]

theorem sampledAt_sampleLine (s : State) (period : Period) (n : LineId) (b : Bool) :
    (s.sampleLine n b).sampledAt period = s.sampledAt period := by
  funext m
  unfold State.sampledAt
  rw [config_sampleLine]

/-- No sample changes which lines the tick samples, so that they can be chosen beforehand. -/
theorem foldl_sampleLine_filter (period : Period) (b : LineId → Bool) (l : List LineId) (s : State) :
    l.foldl (fun t n => if t.sampledAt period n then t.sampleLine n (b n) else t) s
      = (l.filter (s.sampledAt period)).foldl (fun t n => t.sampleLine n (b n)) s := by
  induction l generalizing s with
  | nil => rfl
  | cons n ns ih =>
    rw [List.foldl_cons, ih, List.filter_cons]
    split
    · next hn => rw [sampledAt_sampleLine, List.foldl_cons]
    · rfl

/-- The state before line number `k` of a tick is taken. -/
def beforeLine (s : State) (levels : BitVec 24) (lines : List LineId) (k : Nat) : State :=
  (lines.take k).foldl (fun t n => t.sampleLine n (levels.getLsbD n.val)) s

theorem sampleAll_eq (s : State) (period : Period) (levels : BitVec 24) (order : List LineId) :
    s.sampleAll period levels order
      = beforeLine s levels (tickLines s period order) (tickLines s period order).length := by
  rw [beforeLine, List.take_length]
  exact foldl_sampleLine_filter period (fun n => levels.getLsbD n.val) _ s

theorem beforeLine_succ {s : State} {levels : BitVec 24} {lines : List LineId} {k : Nat} {n : LineId}
    (hk : lines[k]? = some n) :
    beforeLine s levels lines (k + 1) = (beforeLine s levels lines k).sampleLine n (levels.getLsbD n.val) := by
  rw [beforeLine, List.take_add_one, hk, List.foldl_append]
  rfl

/-- Each line taken holds its sample, and each other line stands as before. -/
theorem line_foldl_sampleLine (levels : BitVec 24) (l : List LineId) (hl : l.Nodup) (s : State) (m : LineId) :
    (l.foldl (fun t n => t.sampleLine n (levels.getLsbD n.val)) s).line m
      = if m ∈ l then (s.line m).sampled (levels.getLsbD m.val) else s.line m := by
  induction l generalizing s with
  | nil => simp
  | cons n ns ih =>
    obtain ⟨hn, hns⟩ := List.nodup_cons.mp hl
    rw [List.foldl_cons, ih hns, line_sampleLine]
    by_cases e : m = n
    · subst e; simp [hn]
    · simp [e]

theorem line_beforeLine {s : State} {levels : BitVec 24} {lines : List LineId} (hl : lines.Nodup) {k : Nat} {n : LineId}
    (hk : lines[k]? = some n) : (beforeLine s levels lines k).line n = s.line n := by
  rw [beforeLine, line_foldl_sampleLine levels _ (hl.sublist (List.take_sublist k lines))]
  refine if_neg fun hmem => ?_
  obtain ⟨j, hj, hget⟩ := List.getElem_of_mem hmem
  obtain ⟨hklt, hkn⟩ := List.getElem?_eq_some_iff.mp hk
  rw [List.getElem_take, ← hkn] at hget
  have heq := (List.Nodup.getElem_inj_iff hl).mp hget
  rw [List.length_take] at hj
  omega

/-- The state that a sample tick's first line meets: the divider of its stream has started over (R159). -/
theorem restartDivider_eq (c : Clock) (period : Period) : c.restartDivider period =
    { c with
      dividerUs10 := if period = .us10 then 0 else c.dividerUs10
      dividerUs100 := if period = .us100 then 0 else c.dividerUs100 } := by
  cases period <;> rfl

/-- Settles O48: the states between the samples are the tick's own, and each sample meets its line as the tick found it. -/
theorem sampleTickRaisesItsEvent : Obligations.SampleTickRaisesItsEvent := by
  rintro s period levels order lines hlines
  have htick : lines = tickLines { s with clock := s.clock.restartDivider period } period order := by
    rw [hlines, tickLines, sampleOrder]
    congr 1
    · funext n
      rw [Bool.eq_iff_iff, sampledAt_iff, decide_eq_true_eq]
      rfl
    · congr 1
      refine List.filter_congr fun n _ => ?_
      simp
  have hnodup : lines.Nodup := htick ▸ tickLines_nodup _ _ _
  refine ⟨beforeLine { s with clock := s.clock.restartDivider period } levels lines, ?_, ?_, ?_⟩
  · rw [restartDivider_eq]
    rfl
  · rintro k n x u b qualified mode hk hx rfl rfl hq hu
    have hline : x.line n = s.line n := hx ▸ line_beforeLine hnodup hk
    have hqual : qualified = (x.line n).qualifies (levels.getLsbD n.val) := by
      rw [hline, Bool.eq_iff_iff, hq, qualifies_iff]
    have hu' : u = x.setLine n ((x.line n).sampled (levels.getLsbD n.val)) := by rw [hline]; exact hu
    have hgroup : (u.line n).config.group = (s.line n).config.group := by
      rw [hu, line_setLine_same]
      rfl
    rw [beforeLine_succ hk, ← hx, sampleLine_eq hqual hu', admission_edgeEvent, hgroup, hline]
    simp only [names_iff, isActive_iff] <;> rfl
  · rw [htick, ← sampleAll_eq]
    rfl

/-- Samples keep ports, posts, clock, administrator and the configurations of the routes. -/
def TickKeeps (s t : State) : Prop :=
  t.ports = s.ports ∧ t.posts = s.posts ∧ t.clock = s.clock ∧ t.administrator = s.administrator
    ∧ ∀ n, (t.route n).config = (s.route n).config

theorem TickKeeps.sampleLine {s t : State} (h : TickKeeps s t) (n : LineId) (b : Bool) : TickKeeps s (t.sampleLine n b) := by
  obtain ⟨hports, hposts, hclock, hadm, hconfig⟩ := h
  have hk := sampleLine_kept t n b
  have hp : (t.sampleLine n b).posts = t.posts := (Admits.sameReserved (sampleLine_admits t n b)).1
  exact ⟨hk.ports.trans hports, hp.trans hposts, hk.clock.trans hclock, hk.administrator.trans hadm,
    fun m => (hk.config m).trans (hconfig m)⟩

/-- Settles O47: the lines of the tick hold their samples, and nothing that a sample does touches the rest of the statement. -/
theorem sampleTickQualifiesItsLines : Obligations.SampleTickQualifiesItsLines := by
  intro s period levels order
  refine ⟨_, rfl, ?_⟩
  have hline : ∀ n, (State.sampleAll { s with clock := s.clock.restartDivider period } period levels order).line n
      = if n ∈ tickLines { s with clock := s.clock.restartDivider period } period order
        then (s.line n).sampled (levels.getLsbD n.val) else s.line n := fun n => by
    rw [sampleAll_eq, beforeLine, List.take_length, line_foldl_sampleLine levels _ (tickLines_nodup _ _ _)]
    rfl
  have hkeeps : TickKeeps { s with clock := s.clock.restartDivider period }
      (State.sampleAll { s with clock := s.clock.restartDivider period } period levels order) :=
    sampleAll_keeps (P := TickKeeps _) levels order (fun t n b ht _ => ht.sampleLine n b) ⟨rfl, rfl, rfl, rfl, fun _ => rfl⟩
  generalize State.sampleAll _ period levels order = t at hline hkeeps
  obtain ⟨hports, hposts, hclock, hadm, hconfig⟩ := hkeeps
  refine ⟨fun n b hb => ?_, hconfig, hports, hposts, hadm, ?_, ?_⟩
  · rw [line_driveLines, hline, sampled_eq, ← hb]
    by_cases hoff : (s.line n).config.mode = .off ∨ (s.line n).config.period ≠ period
    · rw [if_pos hoff, if_neg]
      rw [mem_tickLines]
      exact fun h => hoff.elim h.1 fun hp => hp h.2
    · rw [if_neg hoff, if_pos]
      push Not at hoff
      exact mem_tickLines.mpr hoff
  · show t.clock.state = _
    rw [hclock, restartDivider_eq]
  · show t.clock.timebase = _
    rw [hclock, restartDivider_eq]

/-! ## The reference clock -/

theorem oneCycle_of_lt {limit n : Nat} (h : n + 1 < limit) : oneCycle limit n = n + 1 := if_pos h

theorem lossDetected_of_ref {s : State} (hp : s.clock.refPresent = true) (hr : s.clock.state = .ref) :
    s.lossDetected = State.admission { s with clock := { s.clock.loseRef with state := .backup } } .reflost := by
  simp only [State.lossDetected, hp, hr, if_true]

theorem lossDetected_of_not_ref {s : State} (hp : s.clock.refPresent = true) (hr : s.clock.state ≠ .ref) :
    s.lossDetected = { s with clock := s.clock.loseRef } := by
  simp only [State.lossDetected, hp, hr, if_true, if_false]

theorem lossDetected_of_absent {s : State} (hp : s.clock.refPresent = false) : s.lossDetected = s := by
  simp only [State.lossDetected, hp, Bool.false_eq_true, if_false]

/-- Settles O51: each row by the condition of the reference and by whether REF is the clock state. -/
theorem referenceIsSupervised : Obligations.ReferenceIsSupervised := by
  intro s
  refine ⟨⟨_, rfl, rfl, ?_⟩, fun hp => ?_, fun hp => ⟨?_, ?_⟩, fun hp hr => ?_, fun hp hr => ?_⟩
  · show (s.clock.risingEdge).refPresent = true ∧ _
    unfold Clock.risingEdge Clock.divide
    have h10 : s.clock.dividerUs10 < 39 → oneCycle Config.cyclesUs10 s.clock.dividerUs10 = s.clock.dividerUs10 + 1 :=
      fun h => oneCycle_of_lt (Nat.succ_lt_succ h)
    have h100 : s.clock.dividerUs100 < 399 → oneCycle Config.cyclesUs100 s.clock.dividerUs100 = s.clock.dividerUs100 + 1 :=
      fun h => oneCycle_of_lt (Nat.succ_lt_succ h)
    have h1 : s.clock.dividerMs1 < 3999 → oneCycle Config.cyclesMs1 s.clock.dividerMs1 = s.clock.dividerMs1 + 1 :=
      fun h => oneCycle_of_lt (Nat.succ_lt_succ h)
    by_cases hr : s.clock.state = .ref <;> by_cases hp : s.clock.refPresent = true <;> simp [hr, hp] <;>
      exact ⟨h10, h100, h1⟩
  · refine congrArg Host.Outcome.next ?_
    simp only [Clock.becomeStable, hp, if_true]
    rfl
  · refine congrArg Host.Outcome.next ?_
    simp only [Clock.becomeStable, hp, Bool.false_eq_true, if_false]
  · exact congrArg (fun t : State => Host.Outcome.next t.driveLines) (lossDetected_of_absent hp)
  · exact congrArg (fun t : State => Host.Outcome.next t.driveLines) (lossDetected_of_ref hp hr)
  · exact congrArg (fun t : State => Host.Outcome.next t.driveLines) (lossDetected_of_not_ref hp hr)

/-! ## Device reset -/

section
variable (adm : HostId)

theorem slot_resetWith (i : SlotId) : (State.resetWith adm).slot i = { generation := 0, record := none } := vget_replicate _ i

theorem route_resetWith (n : SourceId) : (State.resetWith adm).route n = Route.atReset adm := vget_replicate _ n

theorem host_resetWith (h : HostId) : (State.resetWith adm).host h = HostRecord.atReset := vget_replicate _ h

theorem deliv_resetWith (h : HostId) : (State.resetWith adm).deliv h = Delivery.atReset := vget_replicate _ h

theorem postUnit_resetWith (h : HostId) : (State.resetWith adm).postUnit h = { receipts := [], reservations := 0 } :=
  vget_replicate _ h

theorem line_resetWith (n : LineId) : (State.resetWith adm).line n = Line.atReset := vget_replicate _ n

theorem record?_resetWith (i : SlotId) : (State.resetWith adm).record? i = none :=
  congrArg Slot.record (slot_resetWith adm i)

theorem resetWith_linesDriven : (State.resetWith adm).LinesDriven := by
  intro h
  rw [State.attnCondition, State.wakeCondition, host_resetWith, deliv_resetWith]
  exact ⟨rfl, rfl⟩

theorem resetWith_poolLegal : (State.resetWith adm).WaitListLegal ∧ (State.resetWith adm).PoolLegal := by
  have hzero : ∀ f, (State.resetWith adm).countRecords f = 0 := fun f =>
    countRecords_eq_zero fun i r hr => by rw [record?_resetWith] at hr; cases hr
  have hlive : ∀ n, ((State.resetWith adm).route n).liveCount = 0 := fun n => by rw [route_resetWith]; rfl
  refine ⟨⟨List.nodup_nil, fun e he => by cases he⟩, ⟨?_, ?_, fun n => ?_⟩, Nat.zero_le _, fun n _ => ?_, fun h => absurd rfl h⟩
  · rw [hzero]; rfl
  · rw [hzero]; rfl
  · rw [hzero, hlive]
  · rw [hlive]; exact Nat.zero_le _

end

/-- Settles O52: each item of each block stands at its reset value. -/
theorem deviceResetClearsEverything : Obligations.DeviceResetClearsEverything := by
  intro s pins
  refine ⟨_, rfl, fun i => slot_resetWith pins.straps i, rfl, rfl, fun n => route_resetWith pins.straps n, rfl, fun h => host_resetWith pins.straps h,
    fun h => deliv_resetWith pins.straps h, fun h => postUnit_resetWith pins.straps h, fun n => line_resetWith pins.straps n, fun p => ?_, rfl, rfl, rfl, rfl, rfl,
    rfl, rfl, rfl, rfl⟩
  have hport : (s.deviceReset pins).port p = { Port.atReset with ignoring := hostIn pins.selected p } := vget_vof _ p
  rw [hport]
  exact ⟨rfl, rfl, rfl, rfl⟩

/-- Settles O53: the state after reset meets each invariant, whatever the straps. -/
theorem resetMeetsTheInvariants : Obligations.ResetMeetsTheInvariants := by
  obtain ⟨hreceipts, habsent⟩ := hostsLegal_iff.mp (resetWith_hostsLegal 0)
  obtain ⟨hwait, hpool⟩ := resetWith_poolLegal 0
  have hagrees : (State.resetWith 0).DeliveryAgrees := deliveryAgrees_iff.mpr fun k => resetWith_agrees 0 k
  have hunfinished : (State.resetWith 0).RecordsUnfinished := unfinished_iff.mpr fun i r hr => by
    rw [record?_resetWith] at hr
    cases hr
  have hclock : State.reset.ClockLegal := by decide
  exact ⟨resetWith_linesDriven 0, resetWith_routesLegal 0, resetWith_linesLegal 0, hwait, hpool, hagrees, hunfinished,
    habsent, hreceipts, hclock⟩

end Sys2Proof.Proofs.Ticks
end

section
/-! PROOFS. What the turns of the other slots leave a slot in a cleanup or a purge, host cleanup (R136, R152) and the loss of a host (R151,
R153). -/

namespace Sys2Proof.Proofs.Cleanup

open Sys2Proof Sys2Proof.Machine Sys2Proof.Proofs.RecordLife Sys2Proof.Proofs.QueueOrder Sys2Proof.Proofs.HostsAndReceipts
  Sys2Proof.Proofs.HostCommands Sys2Proof.Proofs.CopyLife Sys2Proof.Proofs.Acknowledgement

/-! ## A slot that others' turns pass by -/

/-- `r'` is `r` up to its repeats and the fields of its kind. -/
def Recounted (r r' : Record) : Prop := r' = { r with repeats := r'.repeats, particulars := r'.particulars }

theorem Recounted.refl (r : Record) : Recounted r r := rfl

theorem Recounted.trans {a b c : Record} (h : Recounted a b) (k : Recounted b c) : Recounted a c := by
  unfold Recounted at *
  rw [k, h]

theorem Recounted.copy {r r' : Record} (h : Recounted r r') (k : HostId) : r'.copy k = r.copy k := by
  unfold Record.copy
  rw [show r'.copies = r.copies by rw [h]]

theorem Noted.recounted {r r' : Record} (h : Noted r r') : Recounted r r' := h.same

theorem voidFor_recounted (r : Record) (h : HostId) : Recounted r (r.voidFor h) := by
  unfold Record.voidFor
  split
  · split <;> rfl
  · rfl

/-- What befalls slot `i` while other slots have their turns: its record is recounted at most, hosts are woken at most, and its places
in queues stay. -/
structure Passed (i : SlotId) (s t : State) : Prop where
  generation : (t.slot i).generation = (s.slot i).generation
  record : ∀ r, s.record? i = some r → ∃ r', t.record? i = some r' ∧ Recounted r r'
  woken : OnlyWoken s t
  queue : ∀ k, i ∈ (s.deliv k).queue → i ∈ (t.deliv k).queue

section
variable {i j : SlotId} {s t u : State}

theorem Passed.refl (i : SlotId) (s : State) : Passed i s s :=
  ⟨rfl, fun r hr => ⟨r, hr, .refl r⟩, .refl s, fun _ h => h⟩

theorem Passed.trans (h : Passed i s t) (k : Passed i t u) : Passed i s u where
  generation := k.generation.trans h.generation
  record r hr := by
    obtain ⟨r1, hr1, h1⟩ := h.record r hr
    obtain ⟨r2, hr2, h2⟩ := k.record r1 hr1
    exact ⟨r2, hr2, h1.trans h2⟩
  woken := h.woken.trans k.woken
  queue x hx := k.queue x (h.queue x hx)

theorem Passed.of_slot (hslot : t.slot i = s.slot i) (hw : OnlyWoken s t)
    (hq : ∀ k, i ∈ (s.deliv k).queue → i ∈ (t.deliv k).queue) : Passed i s t :=
  ⟨by rw [hslot], fun r hr => ⟨r, by rw [← hr]; exact congrArg Slot.record hslot, .refl r⟩, hw, hq⟩

theorem Passed.of_onlySlot (hs : OnlySlot j s t) (hij : i ≠ j) (hh : t.hosts = s.hosts) (hd : t.delivery = s.delivery) :
    Passed i s t :=
  .of_slot (hs i hij) (.of_hosts hh) fun k hk => by rwa [deliv_of_delivery hd]

theorem Passed.of_map {f : Record → Record} (hg : (t.slot i).generation = (s.slot i).generation)
    (hr : t.record? i = (s.record? i).map f) (hf : ∀ r, Recounted r (f r)) (hh : t.hosts = s.hosts)
    (hd : t.delivery = s.delivery) : Passed i s t :=
  ⟨hg, fun r h => ⟨f r, by rw [hr, h]; rfl, hf r⟩, .of_hosts hh, fun k hk => by rwa [deliv_of_delivery hd]⟩

theorem Passed.foldl {β : Type} {f : State → β → State} {l : List β} (hf : ∀ s, ∀ x ∈ l, Passed i s (f s x)) (s : State) :
    Passed i s (l.foldl f s) := by
  induction l generalizing s with
  | nil => exact .refl i s
  | cons x xs ih =>
    exact (hf s x List.mem_cons_self).trans (ih (fun u y hy => hf u y (List.mem_cons_of_mem _ hy)) _)

theorem modifyRecord_delivery (s : State) (j : SlotId) (f : Record → Record) : (s.modifyRecord j f).delivery = s.delivery := by
  unfold State.modifyRecord
  split <;> rfl

theorem generation_modifyRecord (s : State) (i j : SlotId) (f : Record → Record) :
    ((s.modifyRecord j f).slot i).generation = (s.slot i).generation := by
  rw [slot_modifyRecord]
  split_ifs with e
  · rw [e]
  · rfl

theorem modifyRecord_passed (s : State) (i j : SlotId) {f : Record → Record} (hf : ∀ r, Recounted r (f r)) :
    Passed i s (s.modifyRecord j f) := by
  by_cases e : i = j
  · subst e
    exact .of_map (generation_modifyRecord s i i f) (by rw [record?_modifyRecord, if_pos rfl]) hf (modifyRecord_hosts s i f)
      (modifyRecord_delivery s i f)
  · exact .of_onlySlot (modifyRecord_onlySlot s j f) e (modifyRecord_hosts s j f) (modifyRecord_delivery s j f)

theorem mem_of_inserted {prio : SlotId → Nat} {old new : List SlotId} (h : Inserted prio j old new) (hi : i ∈ old) : i ∈ new := by
  obtain ⟨ahead, behind, rfl, rfl, -, -⟩ := h
  rw [List.mem_append] at hi ⊢
  exact hi.imp_right (List.mem_cons_of_mem _)

/-- Admissions pass every slot by, since a record is made in a FREE slot only. -/
theorem Admits.passed (ha : Admits s t) (i : SlotId) : Passed i s t := by
  induction ha with
  | refl => exact .refl i s
  | outcome n o _ ih => exact ih.trans (.of_slot rfl (.of_hosts rfl) fun _ h => h)
  | wait l _ ih => exact ih.trans (.of_slot rfl (.of_hosts rfl) fun _ h => h)
  | note j f hf _ ih => exact ih.trans (modifyRecord_passed _ i j fun r => Noted.recounted (hf r))
  | @make t u n j k delayed repeats hosts esc _ hr hj hc _ ih =>
    refine ih.trans ⟨?_, fun r hr => ?_, created_onlyWoken hc, fun x hx => ?_⟩
    · by_cases e : i = j
      · subst e; rw [hc.slot]
      · rw [hc.otherSlots i e]
    · have e : i ≠ j := fun e => by subst e; rw [hj.1] at hr; cases hr
      exact ⟨r, by rw [created_record? hc, if_neg e]; exact hr, .refl r⟩
    · by_cases hm : x ∈ hosts
      · exact mem_of_inserted (hc.offered x hm).1 hx
      · rwa [hc.otherQueues x hm]

theorem judge_passed (s : State) (hij : i ≠ j) : Passed i s (s.judge j) := by
  rcases judge_cases s j with ⟨he, -⟩ | ⟨r, -, -, ha⟩
  · rw [he]; exact .refl i s
  · exact (Passed.of_onlySlot (closeRecord_onlySlot s j r) hij (closeRecord_hosts s j r) (closeRecord_delivery s j r)).trans
      (Admits.passed ha i)

theorem setCopy_passed (s : State) (hij : i ≠ j) (h : HostId) (c : Copy) : Passed i s (s.setCopy j h c) :=
  .of_onlySlot (setCopy_onlySlot s j h c) hij (setCopy_hosts s j h c) (modifyRecord_delivery s j _)

theorem escalate_passed (s : State) (hij : i ≠ j) (h : HostId) : Passed i s (s.escalate j h) := by
  refine .of_slot (escalate_onlySlot s j h i hij) (escalate_onlyWoken s j h) fun k hk => ?_
  rcases escalate_cases s j h with he | ⟨r, f, -, -, he⟩
  · rw [he]; exact hk
  · rw [he, deliv_wakeFor, deliv_enqueue]
    split_ifs with e
    · subst e
      exact mem_of_inserted (insertByPriority_inserted _ _ _) hk
    · exact hk

/-! ## The turn of one copy -/

/-- The record of slot `j` once host `h`'s copy has ended in a cleanup, before retirement is judged (R152, step 2). -/
def endCopy (s : State) (h : HostId) (j : SlotId) (c : Copy) : State :=
  if c.state = .stale then s.setCopy j h (c.ended .withdrawn) else (s.setCopy j h (c.ended .expired)).escalate j h

theorem cleanupCopy_of_copy {h : HostId} {c : Copy} (hc : s.copy? j h = some c) (ht : c.state.terminal = false) :
    s.cleanupCopy h j = (endCopy s h j c).judge j := by
  simp only [State.cleanupCopy, hc, ht, endCopy, Bool.false_eq_true, if_false]
  split <;> rfl

theorem cleanupCopy_of_ended {h : HostId} (hc : ∀ c, s.copy? j h = some c → c.state.terminal = true) : s.cleanupCopy h j = s := by
  cases hcp : s.copy? j h with
  | none => simp only [State.cleanupCopy, hcp]
  | some c => simp only [State.cleanupCopy, hcp, hc c hcp, if_true]

theorem cleanupCopy_cases (s : State) (h : HostId) (j : SlotId) :
    s.cleanupCopy h j = s ∨ ∃ c, s.copy? j h = some c ∧ c.state.terminal = false ∧ s.cleanupCopy h j = (endCopy s h j c).judge j := by
  by_cases hex : ∃ c, s.copy? j h = some c ∧ c.state.terminal = false
  · obtain ⟨c, hc, ht⟩ := hex
    exact .inr ⟨c, hc, ht, cleanupCopy_of_copy hc ht⟩
  · refine .inl (cleanupCopy_of_ended fun c hc => ?_)
    rw [← Bool.not_eq_false]
    exact fun ht => hex ⟨c, hc, ht⟩

theorem endCopy_passed (s : State) (hij : i ≠ j) (h : HostId) (c : Copy) : Passed i s (endCopy s h j c) := by
  unfold endCopy
  split
  · exact setCopy_passed s hij h _
  · exact (setCopy_passed s hij h _).trans (escalate_passed _ hij h)

theorem cleanupCopy_passed (s : State) (hij : i ≠ j) (h : HostId) : Passed i s (s.cleanupCopy h j) := by
  rcases cleanupCopy_cases s h j with he | ⟨c, -, -, he⟩
  · rw [he]; exact .refl i s
  · rw [he]; exact (endCopy_passed s hij h c).trans (judge_passed _ hij)

theorem escalate_recordsKept (s : State) (i : SlotId) (trigger : HostId) : RecordsKept Record.source s (s.escalate i trigger) := by
  rcases escalate_cases s i trigger with he | ⟨r, f, hr, -, he⟩
  · rw [he]; exact .refl _ s
  · rw [he]
    exact ((setRecord_recordsKept (r' := s.escalatedRecord r f trigger) hr rfl).trans (enqueue_recordsKept _ _ f i)).trans
      (wakeFor_recordsKept _ _ f i)

theorem endCopy_recordsKept (s : State) (h : HostId) (j : SlotId) (c : Copy) : RecordsKept Record.source s (endCopy s h j c) := by
  have hset : ∀ d, RecordsKept Record.source s (s.setCopy j h d) := fun d => (setCopy_recordsKept s j h d).map Record.source
  unfold endCopy
  split
  · exact hset _
  · exact (hset _).trans (escalate_recordsKept _ j h)

/-- A judgement leaves the state, or the slot goes to its next generation. -/
theorem judge_generation (s : State) (j : SlotId) :
    s.judge j = s ∨ ((s.judge j).slot j).generation = (s.slot j).generation + 1 := by
  rcases judge_cases s j with ⟨he, -⟩ | ⟨r, -, -, ha⟩
  · exact .inl he
  · refine .inr ((Admits.passed ha j).generation.trans ?_)
    rw [slot_closeRecord, if_pos rfl]

theorem generation_succ_ne (g : BitVec 8) : g + 1 ≠ g := by
  intro h
  simp at h

/-- With the generation kept, the judgement was none. -/
theorem judge_eq_of_generation {g : BitVec 8} (hs : (s.slot j).generation = g) (ht : ((s.judge j).slot j).generation = g) :
    s.judge j = s :=
  (judge_generation s j).resolve_right fun h => generation_succ_ne g (by rw [← hs, ← h, ht, hs])

theorem voidReservations_passed (s : State) (h : HostId) (i : SlotId) : Passed i s (s.voidReservations h) := by
  have hvoid : Passed i s (allSlots.foldl (fun t j => t.modifyRecord j (fun r => r.voidFor h)) s) :=
    .foldl (fun u j _ => modifyRecord_passed u i j fun r => voidFor_recounted r h) s
  unfold State.voidReservations
  generalize allSlots.foldl _ s = t at hvoid
  exact hvoid.trans (.of_slot rfl (.of_hosts rfl) fun _ hx => hx)

/-- A run over slots as slot `i` of them meets it: the turns before its own, its own, and those after. -/
theorem foldl_turn {f : State → SlotId → State} (hf : ∀ s j, i ≠ j → Passed i s (f s j)) {l : List SlotId} (hl : l.Nodup)
    (hi : i ∈ l) (s : State) : ∃ u, Passed i s u ∧ Passed i (f u i) (l.foldl f s) := by
  obtain ⟨before, after, rfl⟩ := List.append_of_mem hi
  obtain ⟨-, hright, hdisjoint⟩ := List.nodup_append.mp hl
  have hbefore : ∀ j ∈ before, i ≠ j := fun j hj e => hdisjoint j hj i List.mem_cons_self e.symm
  have hafter : ∀ j ∈ after, i ≠ j := fun j hj e => (List.nodup_cons.mp hright).1 (e ▸ hj)
  refine ⟨before.foldl f s, .foldl (fun u j hj => hf u j (hbefore j hj)) s, ?_⟩
  rw [List.foldl_append, List.foldl_cons]
  exact .foldl (fun u j hj => hf u j (hafter j hj)) _

end

/-- A cleanup as slot `i` meets it. -/
theorem cleanup_split (s : State) (h : HostId) (i : SlotId) :
    ∃ u w, Passed i s u ∧ Passed i (u.cleanupCopy h i) w ∧ s.cleanup h = w.clearDelivery h := by
  obtain ⟨u, hbefore, hafter⟩ := foldl_turn (f := fun t j => t.cleanupCopy h j) (fun u j hij => cleanupCopy_passed u hij h)
    (List.nodup_finRange 48) (mem_allSlots i) (s.voidReservations h)
  exact ⟨u, _, (voidReservations_passed s h i).trans hbefore, hafter, rfl⟩

/-! ## What a host out of use keeps -/

section
variable {s t : State} {h : HostId}

theorem Admits.deliv_of_not_usable (ha : Admits s t) (hu : s.usable h = false) : t.deliv h = s.deliv h := by
  induction ha with
  | refl => rfl
  | outcome n o _ ih => exact ih
  | wait l _ ih => exact ih
  | note j f _ _ ih => exact (deliv_modifyRecord _ j f h).trans ih
  | @make t u n j k delayed repeats hosts esc _ hr _ hc hprev ih =>
    refine (hc.otherQueues h fun hm => ?_).trans ih
    have h1 := hr.usable h hm
    rw [OnlyWoken.usable (Admits.onlyWoken hprev), hu] at h1
    cases h1

theorem judge_deliv_of_not_usable (hu : s.usable h = false) (j : SlotId) : (s.judge j).deliv h = s.deliv h := by
  rcases judge_cases s j with ⟨he, -⟩ | ⟨r, -, -, ha⟩
  · rw [he]
  · have hu' : (s.closeRecord j r).usable h = false := by
      rw [(OnlyWoken.of_hosts (closeRecord_hosts s j r)).usable]
      exact hu
    exact (Admits.deliv_of_not_usable ha hu').trans (deliv_of_delivery (closeRecord_delivery s j r) h)

theorem endCopy_woken (s : State) (h : HostId) (j : SlotId) (c : Copy) : OnlyWoken s (endCopy s h j c) := by
  unfold endCopy
  split
  · exact .of_hosts (setCopy_hosts s j h _)
  · exact (OnlyWoken.of_hosts (setCopy_hosts s j h _)).trans (escalate_onlyWoken _ j h)

theorem cleanupCopy_deliv (hu : s.usable h = false) (j : SlotId) : (s.cleanupCopy h j).deliv h = s.deliv h := by
  rcases cleanupCopy_cases s h j with he | ⟨c, hc, -, he⟩
  · rw [he]
  · have hend : (endCopy s h j c).deliv h = s.deliv h := by
      unfold endCopy
      split
      · exact deliv_setCopy s j h h _
      · exact (deliv_escalate_of_copy (copy?_setCopy_same hc _)).trans (deliv_setCopy s j h h _)
    rw [he, judge_deliv_of_not_usable (by rw [(endCopy_woken s h j c).usable]; exact hu), hend]

theorem foldl_cleanupCopy_deliv (l : List SlotId) (hu : s.usable h = false) :
    (l.foldl (fun t j => t.cleanupCopy h j) s).deliv h = s.deliv h := by
  induction l generalizing s with
  | nil => rfl
  | cons j js ih =>
    exact (ih (by rw [(cleanupCopy_onlyWoken s h j).usable]; exact hu)).trans (cleanupCopy_deliv hu j)

theorem voidReservations_deliv (s : State) (h k : HostId) : (s.voidReservations h).deliv k = s.deliv k := by
  have hvoid : (allSlots.foldl (fun t j => t.modifyRecord j (fun r => r.voidFor h)) s).delivery = s.delivery :=
    foldl_keeps (P := fun t => t.delivery = s.delivery) (fun _ _ ht => (modifyRecord_delivery _ _ _).trans ht) allSlots rfl
  unfold State.voidReservations
  generalize allSlots.foldl _ s = t at hvoid
  exact deliv_of_delivery hvoid k

theorem cleanup_deliv (hu : s.usable h = false) :
    (s.cleanup h).deliv h = { s.deliv h with queue := [], stack := [], runningLevel := 0 } := by
  have hu' : (s.voidReservations h).usable h = false := by
    rw [(OnlyWoken.of_hosts (voidReservations_hosts s h)).usable]
    exact hu
  have hcopies := foldl_cleanupCopy_deliv allSlots hu'
  unfold State.cleanup
  generalize allSlots.foldl _ (s.voidReservations h) = t at hcopies
  rw [deliv_clearDelivery, if_pos rfl, hcopies, voidReservations_deliv]

/-- Host `h` has no receipt, no reservation and no RESERVED record. -/
def Unposted (h : HostId) (s : State) : Prop :=
  s.postUnit h = { receipts := [], reservations := 0 } ∧ ∀ i, (s.record? i).any (Record.reservedBy h) = false

theorem Unposted.same (hs : Unposted h s) (k : SameReserved s t) : Unposted h t := by
  refine ⟨(postUnit_of_posts k.1 h).trans hs.1, fun i => (k.2 i h).trans (hs.2 i)⟩

theorem closeRecord_unposted {i : SlotId} {r : Record} (hr : s.record? i = some r) (hs : Unposted h s) :
    Unposted h (s.closeRecord i r) := by
  have hno : r.reservedBy h = false := by simpa [hr] using hs.2 i
  refine ⟨?_, fun j => ?_⟩
  · rw [closeRecord_eq]
    refine (vget_vof _ h).trans ?_
    rw [hno]
    exact hs.1
  · by_cases e : j = i
    · rw [e, record?_closeRecord_same]
      rfl
    · rw [(closeRecord_onlySlot s i r).record? e]
      exact hs.2 j

theorem judge_unposted (i : SlotId) (hs : Unposted h s) : Unposted h (s.judge i) := by
  rcases judge_cases s i with ⟨he, -⟩ | ⟨r, hr, -, ha⟩
  · rw [he]; exact hs
  · exact (closeRecord_unposted hr hs).same (Admits.sameReserved ha)

theorem cleanupCopy_unposted (i : SlotId) {k : HostId} (hs : Unposted h s) : Unposted h (s.cleanupCopy k i) := by
  rcases cleanupCopy_cases s k i with he | ⟨c, -, -, he⟩
  · rw [he]; exact hs
  · rw [he]
    refine judge_unposted i (hs.same ?_)
    unfold endCopy
    split
    · exact setCopy_sameReserved s i k _
    · exact (setCopy_sameReserved s i k _).trans (escalate_sameReserved _ i k)

theorem cleanup_unposted (s : State) (h : HostId) : Unposted h (s.cleanup h) := by
  have hvoid : Unposted h (s.voidReservations h) := by
    refine ⟨by rw [postUnit_voidReservations, if_pos rfl], fun i => ?_⟩
    rw [record?_voidReservations]
    cases s.record? i with
    | none => rfl
    | some r => exact (voidFor_reservedBy r h h).trans (if_pos rfl)
  have hcopies := foldl_keeps (P := Unposted h) (f := fun t i => t.cleanupCopy h i) (fun _ i ht => cleanupCopy_unposted i ht) allSlots
    hvoid
  unfold State.cleanup
  generalize allSlots.foldl _ (s.voidReservations h) = t at hcopies
  exact hcopies.same (.of_store rfl rfl)

theorem reservedBy_iff {r : Record} : r.reservedBy h = true ↔ ∃ payload, r.particulars = .posted payload h .reserved := by
  unfold Record.reservedBy
  split
  · next payload poster hk => simp [hk]
  · next hno =>
    simp only [Bool.false_eq_true, false_iff]
    rintro ⟨payload, hk⟩
    exact hno payload h hk

/-- A host without posts, places and parts is cleared. -/
theorem cleared_of (hp : Unposted h t) (hq : (t.deliv h).queue = []) (hk : (t.deliv h).stack = [])
    (hl : (t.deliv h).runningLevel = 0) (hn : ∀ i, NoPart t h i) : Cleared t h := by
  refine ⟨by rw [hp.1], by rw [hp.1], hq, hk, hl, fun i => noPart_iff.mp (hn i), fun i r payload hr hpart => ?_⟩
  have hres : r.reservedBy h = false := by simpa [hr] using hp.2 i
  rw [reservedBy_iff.mpr ⟨payload, hpart⟩] at hres
  cases hres

theorem cleanup_cleared (hu : s.usable h = false) : Cleared (s.cleanup h) h := by
  have hd := cleanup_deliv hu
  exact cleared_of (cleanup_unposted s h) (by rw [hd]) (by rw [hd]) (by rw [hd]) (cleanup_noPart hu)

end

/-! ## Escalation at a cleanup -/

/-- The conditions of an escalation depend on the record's flags, on which copies there are, and on which of them are ACKED. -/
theorem Escalates.congr {s t : State} {r r' : Record} {f : HostId} (he : Escalates s r f) (hu : t.usable f = s.usable f)
    (hflags : r'.fallback = r.fallback ∧ r'.escalated = r.escalated ∧ r'.purged = r.purged ∧ r'.policy = r.policy)
    (hnone : r.copy f = none → r'.copy f = none)
    (hacked : ∀ k c, r'.copy k = some c → c.state = .acked → r.copy k = some c) : Escalates t r' f := by
  obtain ⟨h1, h2, h3, h4, h5, h6⟩ := he
  obtain ⟨e1, e2, e3, e4⟩ := hflags
  exact ⟨e1.trans h1, e2.trans h2, e3.trans h3, hu.trans h4, hnone h5,
    fun hp k c hc ha => h6 (e4 ▸ hp) k c (hacked k c hc ha) ha⟩

theorem Recounted.flags {r r' : Record} (h : Recounted r r') :
    r'.fallback = r.fallback ∧ r'.escalated = r.escalated ∧ r'.purged = r.purged ∧ r'.policy = r.policy := by
  rw [h]
  exact ⟨rfl, rfl, rfl, rfl⟩

theorem Recounted.symm {r r' : Record} (h : Recounted r r') : Recounted r' r := by
  unfold Recounted at *
  rw [h]

theorem Escalates.recounted {s t : State} {r r' : Record} {f : HostId} (he : Escalates s r f) (hr : Recounted r r')
    (hw : t.usable f = s.usable f) : Escalates t r' f :=
  Escalates.congr he hw hr.flags (fun hn => (hr.copy f).trans hn) fun k _ hc _ => (hr.copy k).symm.trans hc

/-- The end of a copy that was not terminal decides no escalation (R77). -/
theorem escalates_setCopy_iff {s t : State} {r : Record} {h f : HostId} {c : Copy} (hc : r.copy h = some c)
    (ht : c.state.terminal = false) (hu : t.usable f = s.usable f) :
    Escalates t (r.setCopy h (c.ended .expired)) f ↔ Escalates s r f := by
  have hne : ∀ k d, (r.setCopy h (c.ended .expired)).copy k = some d → d.state = .acked → k ≠ h := fun k d hd ha e => by
    rw [copy_setCopy, if_pos e] at hd
    cases hd
    cases ha
  constructor <;> intro he
  · have hf : f ≠ h := fun e => by
      have := he.2.2.2.2.1
      rw [copy_setCopy, if_pos e] at this
      cases this
    refine Escalates.congr he hu.symm ⟨rfl, rfl, rfl, rfl⟩ (fun hn => by rwa [copy_setCopy, if_neg hf] at hn) fun k d hd ha => ?_
    have hk : k ≠ h := fun e => by
      rw [e, hc] at hd
      cases hd
      rw [ha] at ht
      cases ht
    rw [copy_setCopy, if_neg hk]
    exact hd
  · have hf : f ≠ h := fun e => by
      have := he.2.2.2.2.1
      rw [e, hc] at this
      cases this
    refine Escalates.congr he hu ⟨rfl, rfl, rfl, rfl⟩ (fun hn => by rw [copy_setCopy, if_neg hf]; exact hn) fun k d hd ha => ?_
    have hk := hne k d hd ha
    rwa [copy_setCopy, if_neg hk] at hd

/-- A new copy stands the same for a host that was woken meanwhile (Table 3-3). -/
theorem madeCopyState_woken {s t : State} (hw : OnlyWoken s t) (f : HostId) (deepWake : Bool) :
    madeCopyState (t.host f).state deepWake = madeCopyState (s.host f).state deepWake := by
  rcases hw f with h | ⟨hd, h⟩
  · rw [h]
  · rw [h, hd]
    simp [madeCopyState]

end Sys2Proof.Proofs.Cleanup
end

section
/-! PROOFS. What host cleanup leaves of the host's copies and of their escalations (R152, R76 to R78), and the loss of a host (R151,
R153). -/

namespace Sys2Proof.Proofs.HostLoss

open Sys2Proof Sys2Proof.Machine Sys2Proof.Proofs.StepEffects Sys2Proof.Proofs.RecordLife Sys2Proof.Proofs.QueueOrder
  Sys2Proof.Proofs.HostsAndReceipts Sys2Proof.Proofs.HostCommands Sys2Proof.Proofs.CopyLife Sys2Proof.Proofs.Acknowledgement
  Sys2Proof.Proofs.Cleanup

/-! ## The record that a cleanup's turn leaves -/

section
variable {s : State} {h f : HostId} {i : SlotId} {r : Record} {c : Copy}

/-- The record once a copy of it has ended, before an escalation. -/
theorem record?_ended (hr : s.record? i = some r) (d : Copy) : (s.setCopy i h d).record? i = some (r.setCopy h d) := by
  rw [record?_setCopy, if_pos rfl, hr]
  rfl

theorem record?_endCopy_of_stale (hr : s.record? i = some r) (hx : c.state = .stale) :
    (endCopy s h i c).record? i = some (r.setCopy h (c.ended .withdrawn)) := by
  unfold endCopy
  rw [if_pos hx]
  exact record?_ended hr _

theorem usable_setCopy (s : State) (i : SlotId) (h k : HostId) (d : Copy) : (s.setCopy i h d).usable k = s.usable k :=
  (OnlyWoken.of_hosts (setCopy_hosts s i h d)).usable k

theorem record?_endCopy_of_none (hr : s.record? i = some r) (hc : r.copy h = some c) (ht : c.state.terminal = false)
    (hx : c.state ≠ .stale) (hno : ∀ f, ¬ Escalates s r f) :
    (endCopy s h i c).record? i = some (r.setCopy h (c.ended .expired)) := by
  unfold endCopy
  rw [if_neg hx, escalate_of_none h (record?_ended hr _)]
  · exact record?_ended hr _
  · exact fun f he => hno f ((escalates_setCopy_iff hc ht (usable_setCopy s i h f _)).mp he)

/-- With its escalation the turn leaves the fallback host a copy, offered, and the host awake (R78). -/
theorem endCopy_of_escalates (hr : s.record? i = some r) (hc : r.copy h = some c) (ht : c.state.terminal = false)
    (hx : c.state ≠ .stale) (he : Escalates s r f) :
    (endCopy s h i c).record? i = some
        { r with
          copies := vset (r.setCopy h (c.ended .expired)).copies f
            (some { state := madeCopyState (s.host f).state r.deepWake, deadline := none, grace := none, escalation := true })
          escalated := true
          covered := some h }
      ∧ i ∈ ((endCopy s h i c).deliv f).queue
      ∧ (r.deepWake = true → ((endCopy s h i c).host f).state ≠ .deep) := by
  have he' : Escalates (s.setCopy i h (c.ended .expired)) (r.setCopy h (c.ended .expired)) f :=
    (escalates_setCopy_iff hc ht (usable_setCopy s i h f _)).mpr he
  have hhost : (s.setCopy i h (c.ended .expired)).host f = s.host f := by
    unfold State.host
    rw [setCopy_hosts]
  obtain ⟨-, hesc⟩ := escalationCopiesTheFallback _ _ i h _ (record?_ended hr (c.ended .expired)) rfl
  obtain ⟨hrec, -, -, -, ⟨ahead, behind, -, hqueue, -, -⟩, -, -, hwoken, -⟩ := hesc f he'
  rw [hhost] at hrec hwoken
  unfold endCopy
  rw [if_neg hx]
  refine ⟨hrec, by rw [hqueue]; simp, fun hdw => ?_⟩
  rw [hwoken]
  unfold HostRecord.woken
  split_ifs with hdeep
  · simp
  · exact fun hd => hdeep ⟨hd, hdw⟩

/-- A copy's turn is the last change to its copies when the slot keeps its generation (R152). -/
theorem cleanup_turn (i : SlotId) (hr : s.record? i = some r) :
    ∃ u w r1, Passed i s u ∧ u.record? i = some r1 ∧ Recounted r r1 ∧ s.cleanup h = w.clearDelivery h
      ∧ ((∀ c, r.copy h = some c → c.state.terminal = true) → Passed i u w)
      ∧ (∀ c, r.copy h = some c → c.state.terminal = false → Passed i ((endCopy u h i c).judge i) w) := by
  obtain ⟨u, w, hsu, huw, heq⟩ := cleanup_split s h i
  obtain ⟨r1, hr1, hcount⟩ := hsu.record r hr
  have hcopy : u.copy? i h = r.copy h := (copy?_of_record hr1 h).trans (hcount.copy h)
  refine ⟨u, w, r1, hsu, hr1, hcount, heq, fun hended => ?_, fun c hc ht => ?_⟩
  · rwa [cleanupCopy_of_ended fun c hc => hended c (hcopy ▸ hc)] at huw
  · rwa [cleanupCopy_of_copy (hcopy.trans hc) ht] at huw

/-- A turn that leaves a copy non-terminal judges nothing (R11). -/
theorem judge_endCopy_of_open {k : HostId} {d : Copy} {r' : Record} (hr : (endCopy s h i c).record? i = some r')
    (hk : r'.copy k = some d) (ht : d.state.terminal = false) : (endCopy s h i c).judge i = endCopy s h i c :=
  judge_of_unfinished hr (finished_eq_false_iff.mpr ⟨k, d, hk, ht⟩)

theorem madeCopyState_open (x : HostState) (deepWake : Bool) : (madeCopyState x deepWake).terminal = false := by
  unfold madeCopyState
  split <;> rfl

/-- With the generation kept, a copy's turn judged nothing. -/
theorem endCopy_passed_of_generation {u w : State} {g : BitVec 8} (hu : (u.slot i).generation = g)
    (hw : (w.slot i).generation = g) (hp : Passed i ((endCopy u h i c).judge i) w) : Passed i (endCopy u h i c) w := by
  have hend : ((endCopy u h i c).slot i).generation = g := ((endCopy_recordsKept u h i c).generation i).trans hu
  rwa [judge_eq_of_generation hend (hp.generation.symm.trans hw)] at hp

/-- A turn without an escalation ends the host's copy and nothing else of the record. -/
theorem record?_endCopy_of_quiet (hr : s.record? i = some r) (hc : r.copy h = some c) (ht : c.state.terminal = false)
    (hq : c.state = .stale ∨ ∀ f, ¬ Escalates s r f) :
    (endCopy s h i c).record? i = some (r.setCopy h (c.ended (if c.state = .stale then .withdrawn else .expired))) := by
  by_cases hx : c.state = .stale
  · rw [if_pos hx]
    exact record?_endCopy_of_stale hr hx
  · rw [if_neg hx]
    exact record?_endCopy_of_none hr hc ht hx (hq.resolve_left hx)

/-- The host's own copy ends as its state says, whether or not the record escalates. -/
theorem copy_endCopy (hr : s.record? i = some r) (hc : r.copy h = some c) (ht : c.state.terminal = false) :
    ∃ r', (endCopy s h i c).record? i = some r'
      ∧ r'.copy h = some (c.ended (if c.state = .stale then .withdrawn else .expired)) := by
  by_cases hq : c.state = .stale ∨ ∀ f, ¬ Escalates s r f
  · exact ⟨_, record?_endCopy_of_quiet hr hc ht hq, copy_setCopy_same r h _⟩
  · push Not at hq
    obtain ⟨hx, f, he⟩ := hq
    refine ⟨_, (endCopy_of_escalates hr hc ht hx he).1, ?_⟩
    have hf : h ≠ f := fun e => by
      have hnone := he.2.2.2.2.1
      rw [← e, hc] at hnone
      cases hnone
    rw [if_neg hx]
    exact (vget_vset_other _ _ _ _ hf).trans (copy_setCopy_same r h _)

end

/-! ## What the whole cleanup leaves of a record -/

section
variable {s : State} {h : HostId} {i : SlotId} {r : Record}

theorem cleanup_copy_state {c : Copy} (hc : s.copy? i h = some c) (ht : c.state.terminal = false)
    (hg : ((s.cleanup h).slot i).generation = (s.slot i).generation) :
    ((s.cleanup h).copy? i h).map (fun x => x.state) = some (if c.state = .stale then .withdrawn else .expired) := by
  obtain ⟨r, hr, hcr⟩ := copy?_eq_some.mp hc
  obtain ⟨u, w, r1, hsu, hr1, hcount, heq, -, hturn⟩ := cleanup_turn (h := h) i hr
  rw [heq] at hg ⊢
  have hpass := endCopy_passed_of_generation (w := w) hsu.generation hg (hturn c hcr ht)
  obtain ⟨r2, hr2, hcopy2⟩ := copy_endCopy hr1 ((hcount.copy h).trans hcr) ht
  obtain ⟨r3, hr3, hcount3⟩ := hpass.record r2 hr2
  have hcopy : (w.clearDelivery h).copy? i h = some (c.ended (if c.state = .stale then .withdrawn else .expired)) :=
    (copy?_of_record hr3 h).trans ((hcount3.copy h).trans hcopy2)
  rw [hcopy]
  rfl

theorem cleanup_without_escalation {r' : Record} (hr : s.record? i = some r) (hr' : (s.cleanup h).record? i = some r')
    (hg : ((s.cleanup h).slot i).generation = (s.slot i).generation)
    (hq : (∀ c, r.copy h = some c → c.state.terminal = true ∨ c.state = .stale) ∨ (∀ f, ¬ Escalates s r f)) :
    r'.escalated = r.escalated ∧ r'.covered = r.covered ∧ ∀ k, k ≠ h → r'.copy k = r.copy k := by
  obtain ⟨u, w, r1, hsu, hr1, hcount, heq, hnone, hturn⟩ := cleanup_turn (h := h) i hr
  rw [heq] at hg hr'
  have hkept : ∀ r2, Recounted r2 r' → r2.escalated = r1.escalated → r2.covered = r1.covered →
      (∀ k, k ≠ h → r2.copy k = r1.copy k) → r'.escalated = r.escalated ∧ r'.covered = r.covered ∧ ∀ k, k ≠ h → r'.copy k = r.copy k := by
    intro r2 h4 h1 h2 h3
    refine ⟨?_, ?_, fun k hk => (h4.copy k).trans ((h3 k hk).trans (hcount.copy k))⟩
    · rw [h4, hcount] at *
      exact h1
    · rw [h4, hcount] at *
      exact h2
  have hsame : ∀ r2, w.record? i = some r2 → r' = r2 := fun r2 h2 => Option.some.inj (hr'.symm.trans h2)
  by_cases hopen : ∃ c, r.copy h = some c ∧ c.state.terminal = false
  · obtain ⟨c, hc, ht⟩ := hopen
    have hc1 : r1.copy h = some c := (hcount.copy h).trans hc
    have hpass := endCopy_passed_of_generation (w := w) hsu.generation hg (hturn c hc ht)
    have hquiet : c.state = .stale ∨ ∀ f, ¬ Escalates u r1 f := by
      rcases hq with hq | hq
      · exact .inl ((hq c hc).resolve_left (by rw [ht]; simp))
      · exact .inr fun f he => hq f (Escalates.recounted he hcount.symm (hsu.woken.usable f).symm)
    obtain ⟨r3, hr3, hcount3⟩ := hpass.record _ (record?_endCopy_of_quiet hr1 hc1 ht hquiet)
    cases hsame r3 hr3
    exact hkept _ hcount3 rfl rfl fun k hk => copy_setCopy_other r1 h k _ hk
  · have hended : ∀ c, r.copy h = some c → c.state.terminal = true := fun c hc => by
      rw [← Bool.not_eq_false]
      exact fun ht => hopen ⟨c, hc, ht⟩
    obtain ⟨r3, hr3, hcount3⟩ := (hnone hended).record r1 hr1
    cases hsame r3 hr3
    exact hkept r1 hcount3 rfl rfl fun _ _ => rfl

theorem cleanup_escalation {c : Copy} {f : HostId} (hr : s.record? i = some r) (hc : r.copy h = some c)
    (ht : c.state.terminal = false) (hx : c.state ≠ .stale) (he : Escalates s r f) :
    ((s.cleanup h).slot i).generation = (s.slot i).generation
    ∧ (∃ r', (s.cleanup h).record? i = some r' ∧ r'.escalated = true ∧ r'.covered = some h
        ∧ r'.copy f = some
            { state := madeCopyState (s.host f).state r.deepWake, deadline := none, grace := none, escalation := true }
        ∧ r'.copy h = some { c with state := .expired, deadline := none, grace := none }
        ∧ ∀ k, k ≠ h → k ≠ f → r'.copy k = r.copy k)
    ∧ i ∈ ((s.cleanup h).deliv f).queue
    ∧ (r.deepWake = true → ((s.cleanup h).host f).state ≠ .deep) := by
  have hf : f ≠ h := fun e => by
    have hnone := he.2.2.2.2.1
    rw [e, hc] at hnone
    cases hnone
  obtain ⟨u, w, r1, hsu, hr1, hcount, heq, -, hturn⟩ := cleanup_turn (h := h) i hr
  have hc1 : r1.copy h = some c := (hcount.copy h).trans hc
  have hdw : r1.deepWake = r.deepWake := by rw [hcount]
  obtain ⟨hrec, hqueue, hawake⟩ := endCopy_of_escalates hr1 hc1 ht hx (Escalates.recounted he hcount (hsu.woken.usable f))
  rw [hdw] at hrec hawake
  rw [madeCopyState_woken hsu.woken f] at hrec
  have hpass := hturn c hc ht
  rw [judge_endCopy_of_open (k := f) hrec (vget_vset_same ..) (madeCopyState_open _ _)] at hpass
  obtain ⟨r', hr', hcount'⟩ := hpass.record _ hrec
  rw [heq]
  refine ⟨?_, ⟨r', hr', by rw [hcount'], by rw [hcount'], ?_, ?_, fun k hk hkf => ?_⟩, ?_, fun hd => ?_⟩
  · exact hpass.generation.trans (((endCopy_recordsKept u h i c).generation i).trans hsu.generation)
  · exact (hcount'.copy f).trans (vget_vset_same ..)
  · exact (hcount'.copy h).trans ((vget_vset_other _ _ _ _ hf.symm).trans (copy_setCopy_same r1 h _))
  · exact (hcount'.copy k).trans ((vget_vset_other _ _ _ _ hkf).trans
      ((copy_setCopy_other r1 h k _ hk).trans (hcount.copy k)))
  · rw [deliv_clearDelivery, if_neg hf]
    exact hpass.queue f hqueue
  · have hw := hawake hd
    show (w.host f).state ≠ .deep
    rcases hpass.woken f with hk | ⟨hk, -⟩
    · rwa [hk]
    · exact absurd hk hw

end

/-- Settles O16: each slot's record as its own turn leaves it, with the turns of the other slots passing it by. -/
theorem cleanupEndsTheHostsPart : Obligations.CleanupEndsTheHostsPart := by
  rintro s t h hu rfl
  have hd := cleanup_deliv hu
  have hwoken := cleanup_onlyWoken s h
  have hkept := cleanup_kept s h
  refine ⟨cleanup_cleared hu, hwoken.host_of_not_usable hu, by rw [hd], by rw [hd],
    fun i c hc ht hg => cleanup_copy_state hc ht hg, fun i r c f hr hc ht hx he => ?_,
    fun i r r' hr hr' hg hq => cleanup_without_escalation hr hr' hg hq, hkept.ports, sameRest_of_kept hkept⟩
  obtain ⟨hg, hr', hqueue, hawake⟩ := cleanup_escalation hr hc ht hx he
  refine ⟨hg, hr', hqueue, fun hdeep hdw => ?_⟩
  rcases hwoken f with hk | ⟨-, hk⟩
  · refine absurd ?_ (hawake hdw)
    rw [hk]
    exact hdeep
  · exact hk

/-! ## Loss -/

section
variable (s : State) (h : HostId)

/-- A lost host as its loss leaves it: cleared, LOST, and without a wake timer (R151). -/
theorem loseHost_lost :
    Cleared (s.loseHost h) h ∧ ((s.loseHost h).host h).state = .lost ∧ ((s.loseHost h).host h).wakeTimer = none := by
  have hhost : (s.setHost h { s.host h with state := .lost, wakeTimer := none }).host h
      = { s.host h with state := .lost, wakeTimer := none } := by rw [host_setHost, if_pos rfl]
  unfold State.loseHost
  generalize s.setHost h { s.host h with state := .lost, wakeTimer := none } = x at hhost
  have hu : x.usable h = false := by
    unfold State.usable
    rw [hhost]
    rfl
  have hcleaned := cleanup_onlyWoken x h
  have hu' : (x.cleanup h).usable h = false := (hcleaned.usable h).trans hu
  have hdeliv := cleanup_deliv hu
  have hpost := cleanup_unposted x h
  have hpart := cleanup_noPart hu
  have ha := admission_admits (x.cleanup h) (.hostlost h)
  have hkept : ((x.cleanup h).admission (.hostlost h)).host h = x.host h :=
    ((Admits.onlyWoken ha).host_of_not_usable hu').trans (hcleaned.host_of_not_usable hu)
  generalize x.cleanup h = y at *
  have hd := (Admits.deliv_of_not_usable ha hu').trans hdeliv
  refine ⟨cleared_of (hpost.same (Admits.sameReserved ha)) ?_ ?_ ?_ fun i => Admits.noPart ha hu' (hpart i), ?_, ?_⟩
  · rw [hd]
  · rw [hd]
  · rw [hd]
  · rw [hkept, hhost]
  · rw [hkept, hhost]

theorem state_driveLines (t : State) (k : HostId) : (t.driveLines.host k).state = (t.host k).state := by rw [host_driveLines]

theorem wakeTimer_driveLines (t : State) (k : HostId) : (t.driveLines.host k).wakeTimer = (t.host k).wakeTimer := by
  rw [host_driveLines]

theorem cleared_driveLines {t : State} (hc : Cleared t h) : Cleared t.driveLines h := by
  obtain ⟨h1, h2, h3, h4, h5, h6, h7⟩ := hc
  refine ⟨h1, h2, ?_, ?_, ?_, h6, h7⟩
  all_goals rw [deliv_driveLines]
  exacts [h3, h4, h5]

variable {s h}

theorem graceExpiry_of_due {i : SlotId} {c : Copy} (hc : s.copy? i h = some c) (hx : c.state = .overdue) (hg : c.grace = some 0) :
    s.graceExpiry i h = s.loseHost h := by
  simp [State.graceExpiry, hc, Copy.graceDue, hx, hg]

theorem graceExpiry_of_not_due {i : SlotId} (hno : ∀ c, s.copy? i h = some c → c.state ≠ .overdue ∨ c.grace ≠ some 0) :
    s.graceExpiry i h = s := by
  unfold State.graceExpiry
  split
  · rfl
  · next c hc =>
    refine if_neg fun hdue => ?_
    obtain ⟨hx, hg⟩ : c.state = .overdue ∧ c.grace = some 0 := by simpa [Copy.graceDue] using hdue
    exact (hno c hc).elim (fun h => h hx) fun h => h hg

end

/-- Settles O50: a loss clears its host, and the two expiries are losses exactly where their counts stand at 0. -/
theorem expiryLosesTheHost : Obligations.ExpiryLosesTheHost := by
  rintro s h lost hlost
  replace hlost : lost = (s.loseHost h).driveLines := hlost
  obtain ⟨hcleared, hstate, htimer⟩ := loseHost_lost s h
  obtain ⟨hattn, hwake⟩ := driveLines_linesDriven (s.loseHost h) h
  have hline : (lost.host h).state = .lost := by rw [hlost, state_driveLines, hstate]
  rw [← hlost] at hattn hwake
  refine ⟨hline, ?_, ?_, ?_, ?_, fun i hdue => ?_, fun i hno => ?_, fun hx ht => ?_, fun hno => ?_⟩
  · rw [hlost, wakeTimer_driveLines, htimer]
  · rw [hlost]
    exact cleared_driveLines h hcleared
  · rw [hattn, State.attnCondition, hline]
    rfl
  · rw [hwake, State.wakeCondition, hline]
    rfl
  · obtain ⟨c, hc, hx, hg⟩ := hdue
    rw [hlost, ← graceExpiry_of_due hc hx hg]
    rfl
  · exact congrArg (fun t : State => Host.Outcome.next t.driveLines) (graceExpiry_of_not_due hno)
  · rw [hlost]
    exact congrArg (fun t : State => Host.Outcome.next t.driveLines) (if_pos ⟨hx, ht⟩)
  · refine congrArg (fun t : State => Host.Outcome.next t.driveLines) (if_neg ?_)
    rintro ⟨hx, ht⟩
    exact hno.elim (fun h => h hx) fun h => h ht

end Sys2Proof.Proofs.HostLoss
end

section
/-! PROOFS. PURGE: what it makes of the records of its source, of the others, and of the wait list (R39 to R42, R75). -/

namespace Sys2Proof.Proofs.Purge

open Sys2Proof Sys2Proof.Machine Sys2Proof.Proofs.StepEffects Sys2Proof.Proofs.Configuration Sys2Proof.Proofs.RecordLife
  Sys2Proof.Proofs.QueueOrder Sys2Proof.Proofs.HostsAndReceipts Sys2Proof.Proofs.HostCommands Sys2Proof.Proofs.CopyLife
  Sys2Proof.Proofs.Acknowledgement Sys2Proof.Proofs.Writes Sys2Proof.Proofs.Admission Sys2Proof.Proofs.Cleanup

/-! ## The turn of one record -/

/-- A record as a PURGE leaves it where it stays live (R40, R75). -/
def purgedRecord (r : Record) : Record := mapAll withdrawn { r with purged := true }

theorem copy_purgedRecord (r : Record) (h : HostId) : (purgedRecord r).copy h = (r.copy h).map withdrawn := copy_mapAll withdrawn _ h

theorem withdrawn_terminal (c : Copy) :
    (withdrawn c).state.terminal = true ↔ c.state ≠ .taken ∧ c.state ≠ .overdue ∧ c.state ≠ .stale := by
  cases hx : c.state <;> simp [withdrawn, hx, Copy.ended, CopyState.terminal]

section
variable {s : State} {i j : SlotId} {r : Record} {n : SourceId}

theorem record?_purging (s : State) (i : SlotId) : ((s.markPurged i).withdraw i).record? i = (s.record? i).map purgedRecord := by
  rw [record?_withdraw, State.markPurged, record?_modifyRecord, if_pos rfl, Option.map_map]
  rfl

theorem purging_recordsKept (s : State) (i : SlotId) : RecordsKept Record.source s ((s.markPurged i).withdraw i) :=
  (modifyRecord_recordsKept s i (g := fun r => { r with purged := true }) fun _ => rfl).trans ((withdraw_recordsKept _ i).map Record.source)

theorem purgeRecord_passed (s : State) (hij : i ≠ j) : Passed i s (s.purgeRecord j) := by
  have hmark : Passed i s (s.markPurged j) :=
    .of_onlySlot (markPurged_onlySlot s j) hij (markPurged_hosts s j) (modifyRecord_delivery s j _)
  have hwithdraw : Passed i (s.markPurged j) ((s.markPurged j).withdraw j) := by
    refine .of_slot (withdraw_onlySlot _ j i hij) (.of_hosts (withdraw_hosts _ j)) fun k hk => ?_
    rw [deliv_withdraw, leftQueue]
    dsimp only
    split
    · exact List.mem_filter.mpr ⟨hk, by simpa using hij⟩
    · exact hk
  exact (hmark.trans hwithdraw).trans (judge_passed _ hij)

/-- A record that a host holds in service stays, purged (R75). -/
theorem purgeRecord_of_served (hr : s.record? i = some r)
    (hc : ∃ h c, r.copy h = some c ∧ (c.state = .taken ∨ c.state = .overdue ∨ c.state = .stale)) :
    s.purgeRecord i = (s.markPurged i).withdraw i := by
  obtain ⟨h, c, hc, hx⟩ := hc
  have hrec : ((s.markPurged i).withdraw i).record? i = some (purgedRecord r) := by rw [record?_purging, hr]; rfl
  refine judge_of_unfinished hrec (finished_eq_false_iff.mpr ⟨h, withdrawn c, ?_, ?_⟩)
  · rw [copy_purgedRecord, hc]
    rfl
  · rw [← Bool.not_eq_true, withdrawn_terminal]
    rintro ⟨h1, h2, h3⟩
    exact hx.elim h1 fun hx => hx.elim h2 h3

/-- A record that no host holds in service retires (R40). -/
theorem purgeRecord_generation (hr : s.record? i = some r)
    (hc : ∀ h c, r.copy h = some c → c.state ≠ .taken ∧ c.state ≠ .overdue ∧ c.state ≠ .stale) :
    ((s.purgeRecord i).slot i).generation = (s.slot i).generation + 1 := by
  have hrec : ((s.markPurged i).withdraw i).record? i = some (purgedRecord r) := by rw [record?_purging, hr]; rfl
  have hdone : (purgedRecord r).finished = true := finished_iff.mpr fun h d hd => by
    rw [copy_purgedRecord] at hd
    obtain ⟨c, hcopy, rfl⟩ := Option.map_eq_some_iff.mp hd
    exact (withdrawn_terminal c).mpr (hc h c hcopy)
  have hgen := (purging_recordsKept s i).generation i
  unfold State.purgeRecord
  generalize (s.markPurged i).withdraw i = x at *
  rcases judge_cases x i with ⟨-, hopen⟩ | ⟨r', -, -, ha⟩
  · rw [hopen _ hrec] at hdone
    cases hdone
  · rw [(Admits.passed ha i).generation, slot_closeRecord, if_pos rfl, hgen]

/-! ## The wait list -/

/-- Source `n` has no wait entry. -/
def NotWaiting (n : SourceId) (s : State) : Prop := ∀ e ∈ s.waitList, e.source ≠ n

theorem mem_requeue {rest : List WaitEntry} {e x : WaitEntry} (hx : x ∈ requeue rest e) : x ∈ rest ∨ x = e := by
  unfold requeue at hx
  split at hx
  · exact .inl hx
  · simpa using hx

theorem requeue_notWaiting {rest : List WaitEntry} {e e' : WaitEntry} (he : e'.source = e.source)
    (hs : ∀ x ∈ e :: rest, x.source ≠ n) : ∀ x ∈ requeue rest e', x.source ≠ n := fun x hx => by
  rcases mem_requeue hx with hx | rfl
  · exact hs x (List.mem_cons_of_mem _ hx)
  · rw [he]
    exact hs e List.mem_cons_self

theorem handoffRounds_notWaiting (k : Nat) {s : State} (hs : NotWaiting n s) : NotWaiting n (handoffRounds k s) := by
  induction k generalizing s with
  | zero => exact hs
  | succ k ih =>
    unfold handoffRounds
    split
    · exact hs
    · next e rest hw =>
      have hlist : ∀ x ∈ e :: rest, x.source ≠ n := hw ▸ hs
      split
      · exact ih fun x hx => hlist x (List.mem_cons_of_mem _ hx)
      · split
        · exact ih (requeue_notWaiting (e := e) rfl hlist)
        · split
          · exact hs
          · exact requeue_notWaiting (e := e) rfl hlist

/-- A retirement raises no event of its source unless the source is that of a line whose condition stands (R109). -/
theorem purgeRecord_notWaiting (hr : s.record? i = some r) (hn : r.source = n)
    (hl : ∀ l, lineOfSource n = some l → (s.line l).config.mode.isActive (s.line l).qual.level = false
      ∨ (s.line l).qual.firstPending = true) (hs : NotWaiting n s) : NotWaiting n (s.purgeRecord i) := by
  have hrec : ((s.markPurged i).withdraw i).record? i = some (purgedRecord r) := by rw [record?_purging, hr]; rfl
  have hwait := (purging_recordsKept s i).waitList
  have hlines : ((s.markPurged i).withdraw i).lines = s.lines := ((markPurged_kept s i).trans (withdraw_kept _ i)).lines
  unfold State.purgeRecord
  generalize (s.markPurged i).withdraw i = x at *
  cases hf : (purgedRecord r).finished with
  | false =>
    rw [judge_of_unfinished hrec hf, NotWaiting, hwait]
    exact hs
  | true =>
    have hclose : NotWaiting n (x.closeRecord i (purgedRecord r)) := by
      rw [closeRecord_eq, NotWaiting]
      show ∀ e ∈ x.waitList, _
      rw [hwait]
      exact hs
    have hoffer : NotWaiting n ((x.closeRecord i (purgedRecord r)).offerFreed (purgedRecord r)) := by
      unfold State.offerFreed
      split
      · exact hclose
      · exact handoffRounds_notWaiting _ hclose
    have hline : ∀ l, ((x.closeRecord i (purgedRecord r)).offerFreed (purgedRecord r)).line l = s.line l := fun l => by
      unfold State.line
      rw [offerFreed_lines, (closeRecord_kept x i _).lines, hlines]
    rw [judge_of_finished hrec hf, State.retire, State.recheckLine]
    split
    · exact hoffer
    · next l hsrc =>
      rw [levelRecheck_of_absent]
      · exact hoffer
      · rw [hline]
        exact (hl l (hn ▸ hsrc)).imp id .inl

theorem foldl_purgeRecord_notWaiting (l : List SlotId) (hnodup : l.Nodup)
    (hl : ∀ k, lineOfSource n = some k → (s.line k).config.mode.isActive (s.line k).qual.level = false
      ∨ (s.line k).qual.firstPending = true)
    (hr : ∀ j ∈ l, ∃ r, s.record? j = some r ∧ r.source = n) (hs : NotWaiting n s) :
    NotWaiting n (l.foldl State.purgeRecord s) := by
  induction l generalizing s with
  | nil => exact hs
  | cons j js ih =>
    obtain ⟨hj, hjs⟩ := List.nodup_cons.mp hnodup
    obtain ⟨r, hrec, hn⟩ := hr j List.mem_cons_self
    refine ih hjs (fun k hk => ?_) (fun i hi => ?_) (purgeRecord_notWaiting hrec hn hl hs)
    · have hline : (s.purgeRecord j).line k = s.line k := congrArg (fun v => vget v k) (purgeRecord_kept s j).lines
      rw [hline]
      exact hl k hk
    · obtain ⟨r1, hr1, hn1⟩ := hr i (List.mem_cons_of_mem _ hi)
      have hij : i ≠ j := fun e => hj (e ▸ hi)
      obtain ⟨r2, hr2, hcount⟩ := (purgeRecord_passed s hij).record r1 hr1
      exact ⟨r2, hr2, by rw [hcount]; exact hn1⟩

end

/-! ## The command -/

section
variable {s : State} {p : HostId} {n : SourceId} {b : Byte} {i : SlotId} {r : Record}

theorem dropWaiting_passed (s : State) (n : SourceId) (i : SlotId) : Passed i s (s.dropWaiting n) :=
  .of_slot rfl (.of_hosts rfl) fun _ hx => hx

/-- A PURGE as a slot of its source meets it. -/
theorem purgeSource_turn (hr : s.record? i = some r) (hn : r.source = n) :
    ∃ u r1, Passed i s u ∧ u.record? i = some r1 ∧ Recounted r r1 ∧ Passed i (u.purgeRecord i) (s.purgeSource n) := by
  obtain ⟨u, hbefore, hafter⟩ := foldl_turn (f := State.purgeRecord) (fun u j hij => purgeRecord_passed u hij)
    (l := s.slotsOf n) ((List.nodup_finRange 48).filter _) (mem_slotsOf.mpr ⟨r, hr, hn⟩) (s.dropWaiting n)
  have hpass := (dropWaiting_passed s n i).trans hbefore
  obtain ⟨r1, hr1, hcount⟩ := hpass.record r hr
  exact ⟨u, r1, hpass, hr1, hcount, hafter⟩

/-- A PURGE passes the slots of other sources by. -/
theorem purgeSource_passed (hr : s.record? i = some r) (hn : r.source ≠ n) : Passed i s (s.purgeSource n) := by
  refine (dropWaiting_passed s n i).trans (.foldl (fun u j hj => purgeRecord_passed u ?_) _)
  rintro rfl
  obtain ⟨r', hr', hn'⟩ := mem_slotsOf.mp hj
  rw [hr] at hr'
  cases hr'
  exact hn hn'

theorem purgeSource_of_served (hr : s.record? i = some r) (hn : r.source = n)
    (hc : ∃ h c, r.copy h = some c ∧ (c.state = .taken ∨ c.state = .overdue ∨ c.state = .stale)) :
    ((s.purgeSource n).slot i).generation = (s.slot i).generation
      ∧ ∃ r', (s.purgeSource n).record? i = some r' ∧ r'.purged = true ∧ ∀ h, r'.copy h = (r.copy h).map withdrawn := by
  obtain ⟨u, r1, hbefore, hr1, hcount, hafter⟩ := purgeSource_turn hr hn
  have hcopy : r1.copy = r.copy := funext hcount.copy
  have hturn := purgeRecord_of_served hr1 (by rw [hcopy]; exact hc)
  have hrec : (u.purgeRecord i).record? i = some (purgedRecord r1) := by rw [hturn, record?_purging, hr1]; rfl
  obtain ⟨r', hr', hcount'⟩ := hafter.record _ hrec
  refine ⟨hafter.generation.trans ?_, r', hr', by rw [hcount']; rfl, fun h => ?_⟩
  · rw [hturn, (purging_recordsKept u i).generation, hbefore.generation]
  · rw [hcount'.copy, copy_purgedRecord, hcopy]

theorem purgeSource_generation (hr : s.record? i = some r) (hn : r.source = n)
    (hc : ∀ h c, r.copy h = some c → c.state ≠ .taken ∧ c.state ≠ .overdue ∧ c.state ≠ .stale) :
    ((s.purgeSource n).slot i).generation = (s.slot i).generation + 1 := by
  obtain ⟨u, r1, hbefore, hr1, hcount, hafter⟩ := purgeSource_turn hr hn
  have hcopy : r1.copy = r.copy := funext hcount.copy
  rw [hafter.generation, purgeRecord_generation hr1 (by rw [hcopy]; exact hc), hbefore.generation]

theorem purgeSource_notWaiting
    (hl : ∀ l, lineOfSource n = some l → (s.line l).config.mode.isActive (s.line l).qual.level = false
      ∨ (s.line l).qual.firstPending = true ∨ ∀ i r, s.record? i = some r → r.source ≠ n) : NotWaiting n (s.purgeSource n) := by
  have hdrop : NotWaiting n (s.dropWaiting n) := fun e he => by simpa using (List.mem_filter.mp he).2
  by_cases hnone : ∃ i r, s.record? i = some r ∧ r.source = n
  · obtain ⟨i, r, hr, hn⟩ := hnone
    refine foldl_purgeRecord_notWaiting _ ((List.nodup_finRange 48).filter _) (fun l hsrc => ?_) (fun j hj => mem_slotsOf.mp hj) hdrop
    exact (hl l hsrc).imp id fun h => h.resolve_right fun h => h i r hr hn
  · have hslots : s.slotsOf n = [] := List.eq_nil_iff_forall_not_mem.mpr fun j hj => hnone ⟨j, mem_slotsOf.mp hj⟩
    rw [State.purgeSource, hslots]
    exact hdrop

/-- The live records of a source, counted by their slots. -/
theorem length_slotsOf (s : State) (n : SourceId) : (s.slotsOf n).length = s.countRecords (fun r => r.source == n) := by
  rw [State.slotsOf, ← List.countP_eq_length_filter, countRecords_eq]
  refine List.countP_congr fun i _ => ?_
  unfold State.holdsSource
  cases s.record? i <;> simp

theorem purgeRule_of_bad_source (hu : s.usable p = true) (hb : 63 < b.toNat) : purgeRule p [b] s = (s, bare .badarg) := by
  simp only [purgeRule, hu, sourceOf_eq_none.mpr hb]
  rfl

theorem purgeRule_of_source (hu : s.usable p = true) (hn : n.val = b.toNat) : purgeRule p [b] s =
    if s.mayEdit p n then (s.purgeSource n, okWith [byte (s.slotsOf n).length]) else (s, bare .denied) := by
  simp only [purgeRule, hu, sourceOf_eq_some.mpr hn]
  cases s.mayEdit p n <;> rfl

theorem mayEdit_eq_true (h : (s.route n).config.owner = p ∨ s.administrator = p) : s.mayEdit p n = true := by
  simpa [State.mayEdit] using h

end

/-- Settles O38: each record of the source by its own turn, which the other turns pass by. -/
theorem purgeWithdrawsTheSource : Obligations.PurgeWithdrawsTheSource := by
  rintro s w p b hready rfl hu
  refine ⟨fun hb => exec_rowOf_of_ready (c := .purge) hready (purgeRule_of_bad_source hu hb), fun n hn => ⟨fun ho ha => ?_, fun hmay => ?_⟩⟩
  · refine exec_rowOf_of_ready (c := .purge) hready ((purgeRule_of_source hu hn).trans ?_)
    rw [mayEdit_eq_false ho ha]
    rfl
  · generalize hw : s.returnToRun p = w at *
    have hrule : ruleOf .purge p [b] (s.returnToRun p) = (w.purgeSource n, okWith [byte (w.slotsOf n).length]) := by
      rw [hw]
      refine (purgeRule_of_source hu hn).trans ?_
      rw [mayEdit_eq_true hmay]
      rfl
    have hkept := purgeSource_kept w n
    refine ⟨_, exec_rowOf_of_ready hready hrule, ?_, fun i r hr hsrc => ⟨fun hc => ?_, fun hc => ?_⟩, fun i r hr hsrc => ?_,
      purgeSource_notWaiting, ?_, ?_⟩
    · rw [answerOn_answered, length_slotsOf]
      rfl
    · obtain ⟨hg, r', hr', hp, hcopy⟩ := purgeSource_of_served hr hsrc hc
      refine ⟨hg, r', hr', hp, fun h => ?_⟩
      rw [hcopy, funext withdrawn_eq]
    · exact purgeSource_generation hr hsrc hc
    · have hpass := purgeSource_passed hr hsrc
      obtain ⟨r', hr', hcount⟩ := hpass.record r hr
      exact ⟨hpass.generation, r', hr', by rw [hcount], by rw [hcount], by rw [hcount]⟩
    · exact sameOtherPorts_of_ports hkept.ports (sameOtherPorts_answered s _ p [b] _)
    · exact SameRest.trans (sameRest_of_kept hkept) (sameRest_answered s _ p [b] _)

end Sys2Proof.Proofs.Purge
end

section
/-! PROOFS. The pool and the wait list (R3, R14, R46, R49, R53): the counts of live records, the entries of the list, and that a source
waits only while the general pool is full. Between the freeing of a general record and the end of its handoff the pool has one place
to give. -/

namespace Sys2Proof.Proofs.Pool

open Sys2Proof Sys2Proof.Machine Sys2Proof.Proofs.StepEffects Sys2Proof.Proofs.Configuration Sys2Proof.Proofs.RecordLife
  Sys2Proof.Proofs.HostsAndReceipts Sys2Proof.Proofs.CopyLife Sys2Proof.Proofs.Acknowledgement Sys2Proof.Proofs.Admission

/-! ## The counts -/

/-- The counts agree with the live records, of which at most 44 are general and one of each system source (R3, R14). -/
structure CountsLegal (s : State) : Prop where
  agree : s.CountsAgree
  general : s.store.generalLive ≤ 44
  system : ∀ n, isSystem n = true → (s.route n).liveCount ≤ 1

/-- A source waits only while the general pool is full (R53). -/
def Full (s : State) : Prop := s.waitList ≠ [] → s.store.generalLive = 44

theorem poolLegal_iff {s : State} : s.PoolLegal ↔ CountsLegal s ∧ Full s :=
  ⟨fun ⟨h1, h2, h3, h4⟩ => ⟨⟨h1, h2, h3⟩, h4⟩, fun ⟨⟨h1, h2, h3⟩, h4⟩ => ⟨h1, h2, h3, h4⟩⟩

/-- The records' sources and all counts are as before. -/
structure SameCounts (s t : State) : Prop where
  source : ∀ i, (t.record? i).map Record.source = (s.record? i).map Record.source
  generalLive : t.store.generalLive = s.store.generalLive
  systemLive : t.store.systemLive = s.store.systemLive
  liveCount : ∀ n, (t.route n).liveCount = (s.route n).liveCount

section
variable {s t u : State} {i : SlotId} {r : Record}

theorem SameCounts.refl (s : State) : SameCounts s s := ⟨fun _ => rfl, rfl, rfl, fun _ => rfl⟩

theorem SameCounts.trans (h : SameCounts s t) (k : SameCounts t u) : SameCounts s u :=
  ⟨fun i => (k.source i).trans (h.source i), k.generalLive.trans h.generalLive, k.systemLive.trans h.systemLive,
    fun n => (k.liveCount n).trans (h.liveCount n)⟩

theorem SameCounts.of_recordsKept (h : RecordsKept Record.source s t) : SameCounts s t :=
  ⟨h.record, h.generalLive, h.systemLive, fun n => by unfold State.route; rw [h.routes]⟩

theorem SameCounts.count (h : SameCounts s t) (f : SourceId → Bool) :
    t.countRecords (fun r => f r.source) = s.countRecords (fun r => f r.source) := by
  refine countRecords_congr fun i => ?_
  have hsource := congrArg (fun o => o.any f) (h.source i)
  rwa [Option.any_map, Option.any_map] at hsource

theorem SameCounts.agree (h : SameCounts s t) (hs : s.CountsAgree) : t.CountsAgree := by
  obtain ⟨hgeneral, hsystem, hroutes⟩ := hs
  refine ⟨?_, ?_, fun n => ?_⟩
  · exact h.generalLive.trans (hgeneral.trans (h.count fun n => !isSystem n).symm)
  · exact h.systemLive.trans (hsystem.trans (h.count isSystem).symm)
  · exact (h.liveCount n).trans ((hroutes n).trans (h.count fun m => m == n).symm)

theorem CountsLegal.same (hs : CountsLegal s) (h : SameCounts s t) : CountsLegal t :=
  ⟨h.agree hs.agree, h.generalLive ▸ hs.general, fun n hn => (h.liveCount n).trans_le (hs.system n hn)⟩

theorem Full.same (hs : Full s) (h : SameCounts s t) (hw : t.waitList = s.waitList) : Full t := fun hne =>
  h.generalLive.trans (hs (hw ▸ hne))

/-- One record more is counted where it is one of those counted. -/
theorem countRecords_created {hosts : List HostId} (hc : Created s t i r hosts) (hfree : s.record? i = none)
    (f : Record → Bool) : t.countRecords f = s.countRecords f + if f r = true then 1 else 0 := by
  have h := countRecords_onlySlot (s := s) (t := t) (i := i) hc.otherSlots f
  rw [hfree, created_record? hc, if_pos rfl] at h
  simpa using h

theorem countRecords_closed (hr : s.record? i = some r) (f : Record → Bool) :
    (s.closeRecord i r).countRecords f + (if f r = true then 1 else 0) = s.countRecords f := by
  have h := countRecords_onlySlot (closeRecord_onlySlot s i r) f
  rw [record?_closeRecord_same, hr] at h
  simpa using h

theorem generalLive_closeRecord (s : State) (i : SlotId) (r : Record) :
    (s.closeRecord i r).store.generalLive = s.store.generalLive - (if isSystem r.source then 0 else 1) := by
  rw [closeRecord_eq]

theorem systemLive_closeRecord (s : State) (i : SlotId) (r : Record) :
    (s.closeRecord i r).store.systemLive = s.store.systemLive - (if isSystem r.source then 1 else 0) := by
  rw [closeRecord_eq]

theorem waitList_closeRecord (s : State) (i : SlotId) (r : Record) : (s.closeRecord i r).waitList = s.waitList := by
  rw [closeRecord_eq]
  rfl

theorem liveCount_closeRecord (s : State) (i : SlotId) (r : Record) (n : SourceId) :
    ((s.closeRecord i r).route n).liveCount = (s.route n).liveCount - (if r.source = n then 1 else 0) := by
  rw [closeRecord_eq]
  show (State.route (s.setRoute r.source _) n).liveCount = _
  rw [route_setRoute]
  by_cases e : n = r.source
  · subst e
    simp
  · simp [e, Ne.symm e]

theorem closeRecord_countsAgree (hr : s.record? i = some r) (hs : s.CountsAgree) : (s.closeRecord i r).CountsAgree := by
  obtain ⟨hgeneral, hsystem, hroutes⟩ := hs
  have hg := countRecords_closed hr (fun r => !isSystem r.source)
  have hsys := countRecords_closed hr (fun r => isSystem r.source)
  refine ⟨?_, ?_, fun n => ?_⟩
  · rw [generalLive_closeRecord, hgeneral]
    cases hx : isSystem r.source <;> simp [hx] at hg ⊢ <;> omega
  · rw [systemLive_closeRecord, hsystem]
    cases hx : isSystem r.source <;> simp [hx] at hsys ⊢ <;> omega
  · have hn := countRecords_closed hr (fun r => r.source == n)
    rw [liveCount_closeRecord, hroutes]
    simp only [beq_iff_eq] at hn
    split_ifs at hn ⊢ <;> omega

theorem closeRecord_countsLegal (hr : s.record? i = some r) (hs : CountsLegal s) : CountsLegal (s.closeRecord i r) := by
  refine ⟨closeRecord_countsAgree hr hs.agree, ?_, fun n hn => ?_⟩
  · have := hs.general
    rw [generalLive_closeRecord]
    omega
  · have := hs.system n hn
    rw [liveCount_closeRecord]
    omega

/-- The Store grants a source only what the pool can hold (R4). -/
theorem allocate?_room {n : SourceId} (hs : CountsLegal s) (ha : s.allocate? n = some i) :
    (isSystem n = false → s.store.generalLive < 44) ∧ (isSystem n = true → (s.route n).liveCount = 0) := by
  have hg : s.grants n = true := by
    unfold State.allocate? at ha
    split at ha
    · assumption
    · cases ha
  unfold State.grants at hg
  refine ⟨fun hn => ?_, fun hn => ?_⟩
  · rw [hn] at hg
    exact of_decide_eq_true hg
  · rw [hn, if_pos rfl, List.isEmpty_iff] at hg
    rw [hs.agree.2.2 n]
    refine countRecords_eq_zero fun j r hr => ?_
    rw [beq_eq_false_iff_ne]
    intro hsrc
    have hj : j ∈ s.slotsOf n := mem_slotsOf.mpr ⟨r, hr, hsrc⟩
    rw [hg] at hj
    cases hj

theorem created_countsLegal {hosts : List HostId} (hc : Created s t i r hosts) (ha : s.allocate? r.source = some i)
    (hs : CountsLegal s) : CountsLegal t := by
  have hfree := (allocate?_lowestFree ha).1
  obtain ⟨hroom, hnone⟩ := allocate?_room hs ha
  obtain ⟨⟨hgeneral, hsystem, hroutes⟩, h44, hone⟩ := hs
  have hlive : ∀ n, (t.route n).liveCount = (s.route n).liveCount + if r.source = n then 1 else 0 := fun n => by
    by_cases e : n = r.source
    · rw [e, hc.route, if_pos rfl]
    · rw [hc.otherRoutes n e, if_neg (Ne.symm e)]
      rfl
  refine ⟨⟨?_, ?_, fun n => ?_⟩, ?_, fun n hn => ?_⟩
  · rw [hc.generalLive, countRecords_created hc hfree, hgeneral]
    cases isSystem r.source <;> rfl
  · rw [hc.systemLive, countRecords_created hc hfree, hsystem]
  · rw [hlive, countRecords_created hc hfree, hroutes]
    simp only [beq_iff_eq]
  · rw [hc.generalLive]
    cases hx : isSystem r.source with
    | true => exact h44
    | false => exact hroom hx
  · rw [hlive]
    have := hone n hn
    split_ifs with e
    · rw [← e, hnone (e ▸ hn)]
    · exact this

/-! ## A full pool -/

theorem countRecords_le_add {f g h : Record → Bool} (hf : ∀ r, f r = true → g r = true ∨ h r = true) :
    s.countRecords f ≤ s.countRecords g + s.countRecords h := by
  simp only [countRecords_eq]
  induction allSlots with
  | nil => simp
  | cons j js ih =>
    simp only [List.countP_cons]
    have hj : (s.record? j).any f = true → (s.record? j).any g = true ∨ (s.record? j).any h = true := by
      cases s.record? j with
      | none => simp
      | some r => simpa using hf r
    split_ifs <;> simp_all <;> omega

theorem isSystem_iff {n : SourceId} : isSystem n = true ↔ n = 28 ∨ n = 29 ∨ n = 30 ∨ n = 31 := by
  revert n
  decide

/-- At most the four system sources have a record each (R3). -/
theorem systemLive_le (hs : CountsLegal s) : s.store.systemLive ≤ 4 := by
  have hone : ∀ n, isSystem n = true → s.countRecords (fun r => r.source == n) ≤ 1 := fun n hn => hs.agree.2.2 n ▸ hs.system n hn
  have h28 := hone 28 rfl
  have h29 := hone 29 rfl
  have h30 := hone 30 rfl
  have h31 := hone 31 rfl
  rw [hs.agree.2.1]
  have h1 := countRecords_le_add (s := s) (f := fun r => isSystem r.source) (g := fun r => r.source == 28)
    (h := fun r => r.source == 29 || (r.source == 30 || r.source == 31)) (by simp [isSystem_iff])
  have h2 := countRecords_le_add (s := s) (f := fun r => r.source == 29 || (r.source == 30 || r.source == 31))
    (g := fun r => r.source == 29) (h := fun r => r.source == 30 || r.source == 31) (by simp)
  have h3 := countRecords_le_add (s := s) (f := fun r => r.source == 30 || r.source == 31)
    (g := fun r => r.source == 30) (h := fun r => r.source == 31) (by simp)
  omega

/-- With no FREE slot 44 general records live. -/
theorem generalLive_of_no_free (hs : CountsLegal s) (hno : ∀ i, s.record? i ≠ none) : s.store.generalLive = 44 := by
  have hall : s.countRecords (fun _ => true) = 48 := by
    rw [countRecords_eq, List.countP_eq_length.mpr]
    · exact List.length_finRange
    · intro i _
      cases hi : s.record? i with
      | none => exact absurd hi (hno i)
      | some r => rfl
  have hsplit := countRecords_le_add (s := s) (f := fun _ => true) (g := fun r => !isSystem r.source)
    (h := fun r => isSystem r.source) (by simp)
  have hsys := systemLive_le hs
  have h44 := hs.general
  have hagree := hs.agree.1
  have hagree' := hs.agree.2.1
  omega

theorem lowestFree_of_room (hs : CountsLegal s) (hroom : s.store.generalLive < 44) : ∃ i, s.lowestFree = some i := by
  cases hf : s.lowestFree with
  | some i => exact ⟨i, rfl⟩
  | none =>
    have hno : ∀ i, s.record? i ≠ none := fun i hi => by
      have := List.find?_eq_none.mp hf i (mem_allSlots i)
      rw [hi] at this
      exact this rfl
    rw [generalLive_of_no_free hs hno] at hroom
    omega

theorem allocate?_of_room {n : SourceId} (hs : CountsLegal s) (hn : isSystem n = false) (hroom : s.store.generalLive < 44) :
    ∃ i, s.allocate? n = some i := by
  obtain ⟨i, hi⟩ := lowestFree_of_room hs hroom
  exact ⟨i, allocate?_general hn hroom (lowestFree_eq_some.mp hi)⟩

/-- A general source is refused only where the pool is full (R4, R49). -/
theorem generalLive_of_refused {n : SourceId} (hs : CountsLegal s) (hn : isSystem n = false) (ha : s.allocate? n = none) :
    s.store.generalLive = 44 := by
  by_contra hne
  obtain ⟨i, hi⟩ := allocate?_of_room hs hn (Nat.lt_of_le_of_ne hs.general hne)
  rw [ha] at hi
  cases hi

end

end Sys2Proof.Proofs.Pool
end

section
/-! PROOFS. The wait list kept legal, and full pools kept full, by admission (R46, R49), the handoff (R53 to R56), retirement and every
event. -/

namespace Sys2Proof.Proofs.WaitList

open Sys2Proof Sys2Proof.Machine Sys2Proof.Proofs.StepEffects Sys2Proof.Proofs.Configuration Sys2Proof.Proofs.RecordLife
  Sys2Proof.Proofs.HostsAndReceipts Sys2Proof.Proofs.HostCommands Sys2Proof.Proofs.CopyLife Sys2Proof.Proofs.Acknowledgement
  Sys2Proof.Proofs.Admission Sys2Proof.Proofs.Ticks Sys2Proof.Proofs.Cleanup Sys2Proof.Proofs.Purge Sys2Proof.Proofs.Pool

/-! ## Entries -/

/-- What R46 and R53 ask of one wait entry. -/
def EntryLegal (e : WaitEntry) : Prop :=
  e.source.val < 28 ∧ 1 ≤ e.pendingCount ∧ e.pendingCount ≤ 4 ∧ e.repeats ≤ 255 ∧ e.members.Nodup ∧ e.members.length ≤ 8
    ∧ (isGroup e.source = true → e.pendingCount = 1 ∧ 1 ≤ e.members.length) ∧ (isGroup e.source = false → e.members = [])

/-- What R46 and R53 ask of a wait list. -/
def ListLegal (l : List WaitEntry) : Prop := (l.map (fun e => e.source)).Nodup ∧ ∀ e ∈ l, EntryLegal e

theorem waitListLegal_iff {s : State} : s.WaitListLegal ↔ ListLegal s.waitList := Iff.rfl

theorem isGroup_source (ev : RawEvent) : isGroup ev.source = true ↔ ∃ g m, ev = .group g m := by
  cases ev with
  | group g m => simpa [RawEvent.source] using isGroup_groupSource g
  | line n =>
    have hval : (lineSource n).val = n.val := rfl
    have hlt := n.isLt
    simp [RawEvent.source, isGroup, hval]
  | reflost | hostlost _ | poolwait | hostback _ => simp [RawEvent.source]; rfl

theorem source_lt_of_general {ev : RawEvent} (h : isSystem ev.source = false) : ev.source.val < 28 := by
  cases ev with
  | line n => exact Nat.lt_trans n.isLt (by decide)
  | group g m => exact Nat.add_lt_add_left g.isLt 24
  | reflost | hostlost _ | poolwait | hostback _ => cases h

theorem addRepeat_le {k : Nat} (h : k ≤ 255) : addRepeat k ≤ 255 := by
  unfold addRepeat
  have hcap : Config.repeatLimit = 255 := rfl
  split_ifs <;> omega

theorem waitEntry_legal {ev : RawEvent} (h : isSystem ev.source = false) : EntryLegal ev.waitEntry := by
  refine ⟨source_lt_of_general h, Nat.le_refl 1, Nat.le_add_left 1 3, Nat.zero_le _, ?_, ?_, fun hg => ?_, fun hg => ?_⟩
  · cases ev <;> simp [RawEvent.waitEntry]
  · cases ev <;> simp [RawEvent.waitEntry]
  · obtain ⟨g, m, rfl⟩ := (isGroup_source ev).mp hg
    exact ⟨rfl, Nat.le_refl 1⟩
  · cases ev with
    | group g m => rw [← Bool.not_eq_true] at hg; exact absurd ((isGroup_source _).mpr ⟨g, m, rfl⟩) hg
    | line _ | reflost | hostlost _ | poolwait | hostback _ => rfl

theorem mergeMember_legal (m : LineId) {members : List LineId} {repeats : Nat} (hn : members.Nodup) (hl : members.length ≤ 8)
    (hr : repeats ≤ 255) :
    (mergeMember m members repeats).1.Nodup ∧ (mergeMember m members repeats).1.length ≤ 8
      ∧ members.length ≤ (mergeMember m members repeats).1.length ∧ (mergeMember m members repeats).2 ≤ 255 := by
  rw [mergeMember_eq]
  split
  · next h =>
    obtain ⟨hm, hlt⟩ := h
    refine ⟨?_, ?_, ?_, hr⟩
    · exact List.nodup_append.mpr ⟨hn, List.nodup_singleton m, fun a ha b hb => by
        rw [List.mem_singleton.mp hb]
        exact fun e => hm (e ▸ ha)⟩
    · simp only [List.length_append, List.length_singleton]
      omega
    · simp
  · refine ⟨hn, hl, Nat.le_refl _, ?_⟩
    dsimp only
    split_ifs <;> omega

theorem count_source (e : WaitEntry) (ev : RawEvent) (room : Nat) : (e.count ev room).source = e.source := by
  unfold WaitEntry.count
  split
  · rfl
  · split <;> rfl

theorem count_legal {e : WaitEntry} {ev : RawEvent} {room : Nat} (hroom : room ≤ 4) (hsrc : e.source = ev.source)
    (he : EntryLegal e) : EntryLegal (e.count ev room) := by
  obtain ⟨h28, h1, h4, hrep, hnodup, h8, hgroup, hplain⟩ := he
  by_cases hg : isGroup ev.source = true
  · obtain ⟨g, m, rfl⟩ := (isGroup_source ev).mp hg
    rw [← hsrc] at hg
    obtain ⟨hone, hmem⟩ := hgroup hg
    obtain ⟨k1, k2, k3, k4⟩ := mergeMember_legal m hnodup h8 hrep
    exact ⟨h28, h1, h4, k4, k1, k2, fun _ => ⟨hone, hmem.trans k3⟩, fun hno => absurd (hg.symm.trans hno) (by decide)⟩
  · have hcount : e.count ev room = if e.pendingCount < room then { e with pendingCount := e.pendingCount + 1 }
        else { e with repeats := addRepeat e.repeats } := by
      cases ev with
      | group g m => exact absurd ((isGroup_source _).mpr ⟨g, m, rfl⟩) hg
      | line _ | reflost | hostlost _ | poolwait | hostback _ => rfl
    rw [← hsrc] at hg
    rw [hcount]
    split
    · next hlt => exact ⟨h28, Nat.le_add_left 1 _, Nat.le_trans hlt hroom, hrep, hnodup, h8, fun h => absurd h hg, hplain⟩
    · exact ⟨h28, h1, h4, addRepeat_le hrep, hnodup, h8, fun h => absurd h hg, hplain⟩

/-! ## Lists -/

theorem listLegal_nil : ListLegal [] := ⟨List.nodup_nil, fun e he => by cases he⟩

theorem ListLegal.tail {e : WaitEntry} {rest : List WaitEntry} (h : ListLegal (e :: rest)) : ListLegal rest :=
  ⟨(List.nodup_cons.mp h.1).2, fun x hx => h.2 x (List.mem_cons_of_mem _ hx)⟩

theorem ListLegal.filter {l : List WaitEntry} (p : WaitEntry → Bool) (h : ListLegal l) : ListLegal (l.filter p) :=
  ⟨h.1.sublist ((List.filter_sublist (p := p)).map _), fun x hx => h.2 x (List.mem_of_mem_filter hx)⟩

theorem ListLegal.append {l : List WaitEntry} {e : WaitEntry} (h : ListLegal l) (he : EntryLegal e)
    (hnew : ∀ x ∈ l, x.source ≠ e.source) : ListLegal (l ++ [e]) := by
  obtain ⟨hnodup, hlegal⟩ := h
  refine ⟨?_, fun x hx => ?_⟩
  · rw [List.map_append, List.map_singleton]
    refine List.nodup_append.mpr ⟨hnodup, List.nodup_singleton _, fun a ha b hb => ?_⟩
    obtain ⟨x, hx, rfl⟩ := List.mem_map.mp ha
    rw [List.mem_singleton.mp hb]
    exact hnew x hx
  · rcases List.mem_append.mp hx with hx | hx
    · exact hlegal x hx
    · rw [List.mem_singleton.mp hx]
      exact he

/-- A served entry goes back legal: a group's leaves the list, and another's has no members (R55, R56). -/
theorem ListLegal.requeue {e e' : WaitEntry} {rest : List WaitEntry} (h : ListLegal (e :: rest)) (hsrc : e'.source = e.source)
    (hcount : e'.pendingCount = e.pendingCount - 1) (hrep : e'.repeats ≤ 255) (hmem : isGroup e.source = false → e'.members = []) :
    ListLegal (requeue rest e') := by
  obtain ⟨h28, h1, h4, -, -, -, hgroup, -⟩ := h.2 e List.mem_cons_self
  unfold Machine.requeue
  split
  · exact h.tail
  · next hne =>
    have hplain : isGroup e.source = false := by
      rw [← Bool.not_eq_true]
      intro hg
      obtain ⟨hone, -⟩ := hgroup hg
      omega
    refine h.tail.append ⟨hsrc ▸ h28, by omega, by omega, hrep, ?_, ?_, fun hg => ?_, fun _ => hmem hplain⟩ fun x hx hs => ?_
    · rw [hmem hplain]
      exact List.nodup_nil
    · rw [hmem hplain]
      exact Nat.zero_le 8
    · rw [hsrc, hplain] at hg
      cases hg
    · exact (List.nodup_cons.mp h.1).1 (List.mem_map.mpr ⟨x, hx, hs.trans hsrc⟩)

/-! ## The handoff -/

section
variable {s t : State}

theorem setLastOutcome_sameCounts (s : State) (n : SourceId) (o : LastOutcome) : SameCounts s (s.setLastOutcome n o) := by
  refine ⟨fun _ => rfl, rfl, rfl, fun m => ?_⟩
  unfold State.setLastOutcome
  rw [route_setRoute]
  split_ifs with e
  · rw [e]
  · rfl

theorem isSystem_of_lt {n : SourceId} (h : n.val < 28) : isSystem n = false := by
  simp only [isSystem, Bool.and_eq_false_imp, decide_eq_true_eq, decide_eq_false_iff_not]
  omega

/-- With one place to give, the handoff gives it or empties the list (R53, R56). -/
theorem handoffRounds_legal (k : Nat) {s : State} (hs : CountsLegal s) (hl : ListLegal s.waitList)
    (hroom : s.store.generalLive = 43) (hk : handoffBound s.waitList ≤ k) :
    CountsLegal (handoffRounds k s) ∧ ListLegal (handoffRounds k s).waitList ∧ Full (handoffRounds k s) := by
  induction k generalizing s with
  | zero =>
    cases hw : s.waitList with
    | nil => exact ⟨hs, hl, fun hne => absurd hw hne⟩
    | cons e rest =>
      rw [hw, handoffBound_cons] at hk
      omega
  | succ k ih =>
    unfold handoffRounds
    split
    · next hw => exact ⟨hs, hl, fun hne => absurd hw hne⟩
    · next e rest hw =>
      rw [hw] at hl hk
      rw [handoffBound_cons] at hk
      obtain ⟨h28, -, -, hrep, -, -, -, hplain⟩ := hl.2 e List.mem_cons_self
      split
      · exact ih (s := { s with waitList := rest }) (hs.same ⟨fun _ => rfl, rfl, rfl, fun _ => rfl⟩) hl.tail hroom
          (by show handoffBound rest ≤ k; omega)
      · split
        · have hsame := setLastOutcome_sameCounts s e.source .notarget
          refine ih (s := { s.setLastOutcome e.source .notarget with waitList := requeue rest e.refused })
            (hs.same ⟨hsame.source, hsame.generalLive, hsame.systemLive, hsame.liveCount⟩)
            (hl.requeue (e' := e.refused) rfl rfl hrep hplain) (hsame.generalLive.trans hroom) ?_
          exact (handoffBound_requeue_le rest rfl).trans (by omega)
        · next hosts esc hr =>
          have hsys := isSystem_of_lt h28
          obtain ⟨i, hi⟩ := allocate?_of_room hs hsys (by omega)
          simp only [hi]
          have hc := createRecord_of_allocated (k := e.particulars) true e.repeats (recipients_eq_some.mp hr) hi
          have hlegal := created_countsLegal hc hi hs
          have hlive := hc.generalLive
          refine ⟨hlegal.same ⟨fun _ => rfl, rfl, rfl, fun _ => rfl⟩,
            hl.requeue (e' := e.transferred) rfl rfl (Nat.zero_le _) (fun _ => rfl), fun _ => hlive.trans ?_⟩
          rw [hroom, show (madeRecord s e.source e.particulars true e.repeats hosts esc).source = e.source from rfl, hsys]
          rfl

/-! ## Admission -/

/-- The whole of what the pool and the wait list are kept by. -/
structure Sound (s : State) : Prop where
  routes : s.RoutesLegal
  counts : CountsLegal s
  list : ListLegal s.waitList
  full : Full s

theorem sound_iff : Sound s ↔ s.RoutesLegal ∧ s.WaitListLegal ∧ s.PoolLegal := by
  rw [poolLegal_iff, waitListLegal_iff]
  exact ⟨fun ⟨h1, h2, h3, h4⟩ => ⟨h1, h3, h2, h4⟩, fun ⟨h1, h3, h2, h4⟩ => ⟨h1, h2, h3, h4⟩⟩

theorem Sound.same (hs : Sound s) (hk : Kept s t) (hc : SameCounts s t) (hw : t.waitList = s.waitList) : Sound t :=
  ⟨routesLegal_of_kept hk hs.routes, hs.counts.same hc, hw ▸ hs.list, hs.full.same hc hw⟩

theorem Sound.recordsKept (hs : Sound s) (hk : Kept s t) (hr : RecordsKept Record.source s t) : Sound t :=
  hs.same hk (.of_recordsKept hr) hr.waitList

theorem countWaiting_sound (ev : RawEvent) (hs : Sound s) : Sound (s.countWaiting ev) := by
  have hroom : (s.route ev.source).config.depth - (s.route ev.source).liveCount ≤ 4 := by
    obtain ⟨-, -, -, hd, -⟩ := hs.routes ev.source
    omega
  refine ⟨routesLegal_of_kept (countWaiting_kept s ev) hs.routes, hs.counts.same ⟨fun _ => rfl, rfl, rfl, fun _ => rfl⟩, ⟨?_, ?_⟩,
    fun hne => hs.full fun hnil => hne ?_⟩
  · have hsources : (s.countWaiting ev).waitList.map (fun e => e.source) = s.waitList.map (fun e => e.source) := by
      show (s.waitList.map _).map _ = _
      rw [List.map_map]
      refine List.map_congr_left fun e _ => ?_
      show WaitEntry.source (if e.source == ev.source then _ else e) = e.source
      split
      · exact count_source ..
      · rfl
    rw [hsources]
    exact hs.list.1
  · intro x hx
    obtain ⟨e, he, rfl⟩ := List.mem_map.mp hx
    split
    · next hsrc => exact count_legal hroom (beq_iff_eq.mp hsrc) (hs.list.2 e he)
    · exact hs.list.2 e he
  · show s.waitList.map _ = []
    rw [hnil]
    rfl

theorem joinWaitList_sound {ev : RawEvent} (hno : ∀ e ∈ s.waitList, e.source ≠ ev.source) (ha : s.allocate? ev.source = none)
    (hs : Sound s) : Sound (s.joinWaitList ev) := by
  unfold State.joinWaitList
  split
  · exact hs
  · next hn =>
    rw [Bool.not_eq_true] at hn
    exact ⟨hs.routes, hs.counts.same ⟨fun _ => rfl, rfl, rfl, fun _ => rfl⟩, hs.list.append (waitEntry_legal hn) hno,
      fun _ => (generalLive_of_refused hs.counts hn ha :)⟩

/-- A record made where the Store grants it leaves a waiting list as it was: such a record is a system source's (R49). -/
theorem created_sound {i : SlotId} {r : Record} {hosts : List HostId} (hk : Kept s t) (hc : Created s t i r hosts)
    (ha : s.allocate? r.source = some i) (hs : Sound s) : Sound t := by
  refine ⟨routesLegal_of_kept hk hs.routes, created_countsLegal hc ha hs.counts, hc.waitList ▸ hs.list, fun hne => ?_⟩
  rw [hc.waitList] at hne
  have h44 := hs.full hne
  rw [hc.generalLive]
  cases hn : isSystem r.source with
  | true => exact h44
  | false =>
    have := (allocate?_room hs.counts ha).1 hn
    omega

theorem admitNew_sound {ev : RawEvent} (hno : ∀ e ∈ s.waitList, e.source ≠ ev.source) (hs : Sound s) : Sound (s.admitNew ev) := by
  cases hr : s.recipients (s.route ev.source).config with
  | none =>
    rw [admitNew_of_no_recipient (recipients_eq_none.mp hr)]
    exact hs.same (setLastOutcome_kept s _ _) (setLastOutcome_sameCounts s _ _) rfl
  | some x =>
    obtain ⟨hosts, esc⟩ := x
    have hrec := recipients_eq_some.mp hr
    cases ha : s.allocate? ev.source with
    | none =>
      rw [admitNew_of_refused hrec ha]
      exact joinWaitList_sound hno ha hs
    | some i =>
      rw [admitNew_of_allocated hrec ha]
      exact created_sound (createRecord_kept s i _ hosts esc)
        (createRecord_of_allocated (k := ev.particulars) false 0 hrec ha) ha hs

theorem modifyRecord_sound (i : SlotId) {f : Record → Record} (hf : ∀ r, (f r).source = r.source) (hs : Sound s) :
    Sound (s.modifyRecord i f) := hs.recordsKept (modifyRecord_kept s i f) (modifyRecord_recordsKept s i hf)

theorem admitClosed_sound (ev : RawEvent) (hs : Sound s) : Sound (s.admitClosed ev) := by
  by_cases hw : ∃ e ∈ s.waitList, e.source = ev.source
  · rw [admitClosed_of_waiting hw]
    exact countWaiting_sound ev hs
  · have hno : ∀ e ∈ s.waitList, e.source ≠ ev.source := fun e he hsrc => hw ⟨e, he, hsrc⟩
    by_cases hd : (s.route ev.source).config.depth ≤ (s.route ev.source).liveCount
    · rw [admitClosed_of_depth hno hd]
      unfold State.coalesce
      split
      · exact hs
      · exact modifyRecord_sound _ (fun _ => rfl) hs
    · rw [admitClosed_of_room hno (Nat.lt_of_not_le hd)]
      exact admitNew_sound hno hs

theorem admitOne_sound (ev : RawEvent) (hs : Sound s) : Sound (s.admitOne ev) := by
  unfold State.admitOne
  split
  · unfold State.admitEnabled
    split
    · split
      · exact modifyRecord_sound _ (fun r => (merge_noted r _).source) hs
      · exact admitClosed_sound _ hs
    · exact admitClosed_sound _ hs
  · exact hs

theorem admission_sound (ev : RawEvent) (hs : Sound s) : Sound (s.admission ev) := by
  have hone := admitOne_sound ev hs
  unfold State.admission
  dsimp only
  split
  · exact admitOne_sound .poolwait hone
  · exact hone

theorem levelRecheck_sound (n : LineId) (hs : Sound s) : Sound (s.levelRecheck n) := by
  unfold State.levelRecheck
  split
  · exact admission_sound _ hs
  · exact hs

/-! ## Retirement -/

theorem retire_sound {i : SlotId} {r : Record} (hr : s.record? i = some r) (hs : Sound s) : Sound (s.retire i r) := by
  have hclosed := closeRecord_countsLegal hr hs.counts
  have hroutes := routesLegal_of_kept (closeRecord_kept s i r) hs.routes
  have hlive := generalLive_closeRecord s i r
  have hwait := waitList_closeRecord s i r
  have hlist : ListLegal (s.closeRecord i r).waitList := by rw [hwait]; exact hs.list
  have hoffer : Sound ((s.closeRecord i r).offerFreed r) := by
    unfold State.offerFreed
    by_cases hnil : s.waitList = []
    · rw [handoff_of_empty (hwait.trans hnil), ite_self]
      exact ⟨hroutes, hclosed, hlist, fun hne => absurd (hwait.trans hnil) hne⟩
    · have h44 := hs.full hnil
      cases hn : isSystem r.source with
      | true =>
        rw [if_pos rfl]
        refine ⟨hroutes, hclosed, hlist, fun _ => ?_⟩
        rw [hlive, hn, h44]
        rfl
      | false =>
        rw [if_neg (by simp)]
        have hroom : (s.closeRecord i r).store.generalLive = 43 := by
          rw [hlive, hn, h44]
          rfl
        obtain ⟨h1, h2, h3⟩ := handoffRounds_legal (handoffBound (s.closeRecord i r).waitList) hclosed hlist hroom (Nat.le_refl _)
        exact ⟨routesLegal_of_kept (handoff_kept _) hroutes, h1, h2, h3⟩
  unfold State.retire State.recheckLine
  generalize (s.closeRecord i r).offerFreed r = t at hoffer
  split
  · exact hoffer
  · exact levelRecheck_sound _ hoffer

theorem judge_sound (i : SlotId) (hs : Sound s) : Sound (s.judge i) := by
  unfold State.judge
  split
  · exact hs
  · next r hr =>
    split
    · exact retire_sound hr hs
    · exact hs

end

end Sys2Proof.Proofs.WaitList
end

section
/-! PROOFS. Every event keeps the pool and the wait list (R3, R14, R46, R53). -/

namespace Sys2Proof.Proofs.PoolEvents

open Sys2Proof Sys2Proof.Machine Sys2Proof.Proofs.StepEffects Sys2Proof.Proofs.Configuration Sys2Proof.Proofs.RecordLife
  Sys2Proof.Proofs.QueueOrder Sys2Proof.Proofs.HostsAndReceipts Sys2Proof.Proofs.HostCommands Sys2Proof.Proofs.CopyLife
  Sys2Proof.Proofs.Acknowledgement Sys2Proof.Proofs.Admission Sys2Proof.Proofs.Ticks Sys2Proof.Proofs.Cleanup
  Sys2Proof.Proofs.Purge Sys2Proof.Proofs.Pool Sys2Proof.Proofs.WaitList

section
variable {s t : State}

/-! ## Hosts and copies -/

/-- What touches no record, no route and no wait entry keeps the pool. -/
theorem Sound.of_store (hs : Sound s) (hk : Kept s t) (hst : t.store = s.store) (hr : t.routes = s.routes)
    (hw : t.waitList = s.waitList) : Sound t :=
  hs.same hk ⟨fun i => by rw [record?_of_store hst], by rw [hst], by rw [hst], fun n => by unfold State.route; rw [hr]⟩ hw

theorem setHost_sound (h : HostId) (x : HostRecord) (hs : Sound s) : Sound (s.setHost h x) :=
  Sound.of_store hs (setHost_kept s h x) rfl rfl rfl

theorem setDeliv_sound (h : HostId) (d : Delivery) (hs : Sound s) : Sound (s.setDeliv h d) :=
  Sound.of_store hs (setDeliv_kept s h d) rfl rfl rfl

theorem setPostUnit_sound (h : HostId) (x : PostUnit) (hs : Sound s) : Sound (s.setPostUnit h x) :=
  Sound.of_store hs (setPostUnit_kept s h x) rfl rfl rfl

theorem openSession_sound (h : HostId) (grace wake : Nat) (hs : Sound s) : Sound (s.openSession h grace wake) :=
  setDeliv_sound h _ (setHost_sound h _ hs)

theorem mapCopies_sameCounts (s : State) (h : HostId) (f : Copy → Copy) : SameCounts s (s.mapCopies h f) := by
  refine ⟨fun i => ?_, rfl, rfl, fun _ => rfl⟩
  rw [record?_mapCopies, Option.map_map]
  refine congrArg (fun g => (s.record? i).map g) (funext fun r => ?_)
  show (r.modifyCopy h f).source = r.source
  unfold Record.modifyCopy
  split <;> rfl

theorem mapCopies_sound (h : HostId) (f : Copy → Copy) (hs : Sound s) : Sound (s.mapCopies h f) :=
  hs.same (mapCopies_kept s h f) (mapCopies_sameCounts s h f) rfl

theorem returnToRun_sameCounts (s : State) (h : HostId) : SameCounts s (s.returnToRun h) := by
  have hawake : SameCounts s ((s.setHost h { s.host h with state := .run, wakeTimer := none }).mapCopies h Copy.unpark) :=
    SameCounts.trans (t := s.setHost h { s.host h with state := .run, wakeTimer := none })
      ⟨fun _ => rfl, rfl, rfl, fun _ => rfl⟩ (mapCopies_sameCounts _ h _)
  unfold State.returnToRun
  split
  · exact hawake
  · exact hawake
  · exact .refl s

theorem returnToRun_sound (h : HostId) (hs : Sound s) : Sound (s.returnToRun h) := by
  unfold State.returnToRun
  split
  · exact mapCopies_sound h _ (setHost_sound h _ hs)
  · exact mapCopies_sound h _ (setHost_sound h _ hs)
  · exact hs

theorem setCopy_sound (i : SlotId) (h : HostId) (c : Copy) (hs : Sound s) : Sound (s.setCopy i h c) :=
  modifyRecord_sound i (fun _ => rfl) hs

theorem escalate_sound (i : SlotId) (h : HostId) (hs : Sound s) : Sound (s.escalate i h) :=
  hs.recordsKept (escalate_kept s i h) (escalate_recordsKept s i h)

theorem withdraw_sound (i : SlotId) (hs : Sound s) : Sound (s.withdraw i) :=
  hs.recordsKept (withdraw_kept s i) ((withdraw_recordsKept s i).map Record.source)

theorem satisfy_sound (i : SlotId) (hs : Sound s) : Sound (s.satisfy i) := by
  unfold State.satisfy
  split
  · exact hs
  · split
    · exact withdraw_sound i hs
    · exact hs

theorem cleanupCopy_sound (h : HostId) (i : SlotId) (hs : Sound s) : Sound (s.cleanupCopy h i) := by
  unfold State.cleanupCopy
  split
  · exact hs
  · split_ifs
    · exact hs
    · exact judge_sound i (setCopy_sound i h _ hs)
    · exact judge_sound i (escalate_sound i h (setCopy_sound i h _ hs))

theorem voidReservations_sound (h : HostId) (hs : Sound s) : Sound (s.voidReservations h) := by
  have hvoid := foldl_keeps (P := Sound) (f := fun t i => t.modifyRecord i (fun r => r.voidFor h))
    (fun t i ht => modifyRecord_sound i (fun r => by unfold Record.voidFor; split <;> [split <;> rfl; rfl]) ht) allSlots hs
  unfold State.voidReservations
  generalize allSlots.foldl _ s = t at hvoid
  exact setPostUnit_sound h _ hvoid

theorem cleanup_sound (h : HostId) (hs : Sound s) : Sound (s.cleanup h) := by
  have hcopies := foldl_keeps (P := Sound) (f := fun t i => t.cleanupCopy h i) (fun _ i ht => cleanupCopy_sound h i ht) allSlots
    (voidReservations_sound h hs)
  unfold State.cleanup
  generalize allSlots.foldl _ (s.voidReservations h) = t at hcopies
  exact setDeliv_sound h _ hcopies

theorem loseHost_sound (h : HostId) (hs : Sound s) : Sound (s.loseHost h) :=
  admission_sound _ (cleanup_sound h (setHost_sound h _ hs))

theorem deadlineExpiry_sound (i : SlotId) (h : HostId) (hs : Sound s) : Sound (s.deadlineExpiry i h) := by
  unfold State.deadlineExpiry
  split
  · exact hs
  · split_ifs
    · exact judge_sound i (escalate_sound i h (setDeliv_sound h _ (setCopy_sound i h _ hs)))
    · exact escalate_sound i h (setCopy_sound i h _ hs)
    · exact hs

theorem takeHead_sound (h : HostId) (i : SlotId) (hs : Sound s) : Sound (s.takeHead h i) := by
  refine modifyRecord_sound i (fun r => ?_) (setDeliv_sound h _ (setDeliv_sound h _ hs))
  have hmodify : (r.modifyCopy h Copy.take).source = r.source := by
    unfold Record.modifyCopy
    split <;> rfl
  unfold Record.close
  split <;> exact hmodify

/-! ## Posts, routes and FLUSHALL -/

theorem createPost_sound {p : HostId} {n : SourceId} {i : SlotId} (payload : BitVec 16) (receipt : Bool) {hosts : List HostId}
    {esc : Bool} (hr : Recipients s (s.route n).config hosts esc) (ha : s.allocate? n = some i) (hs : Sound s) :
    Sound (s.createPost p n i payload receipt hosts esc) := by
  have hmade := created_sound (createRecord_kept s i _ hosts esc)
    (createRecord_of_allocated (k := .posted payload p (if receipt then .reserved else .none)) false 0 hr ha) ha hs
  cases receipt with
  | true => exact setPostUnit_sound p _ hmade
  | false => exact hmade

theorem dropWaiting_sound (n : SourceId) (hs : Sound s) : Sound (s.dropWaiting n) :=
  ⟨routesLegal_of_kept (dropWaiting_kept s n) hs.routes, hs.counts.same ⟨fun _ => rfl, rfl, rfl, fun _ => rfl⟩,
    hs.list.filter _, fun hne => hs.full fun hnil => hne (by show s.waitList.filter _ = []; rw [hnil]; rfl)⟩

theorem storeRoute_sound {n : SourceId} {c : RouteConfig} (hr : (s.storeRoute n c).RoutesLegal) (hs : Sound s) :
    Sound (s.storeRoute n c) := by
  have hset : SameCounts s (s.setRoute n { s.route n with config := c }) := ⟨fun _ => rfl, rfl, rfl, fun m => by
    rw [route_setRoute]
    split_ifs with e
    · rw [e]
    · rfl⟩
  have hdrop : SameCounts s ((s.setRoute n { s.route n with config := c }).dropWaiting n) :=
    hset.trans ⟨fun _ => rfl, rfl, rfl, fun _ => rfl⟩
  by_cases hd : ((s.route n).config.enabled && !c.enabled) = true
  · have he : s.storeRoute n c = (s.setRoute n { s.route n with config := c }).dropWaiting n := if_pos hd
    rw [he] at hr ⊢
    refine ⟨hr, hs.counts.same hdrop, hs.list.filter _, fun hne => hdrop.generalLive.trans (hs.full fun hnil => hne ?_)⟩
    show s.waitList.filter _ = []
    rw [hnil]
    rfl
  · have he : s.storeRoute n c = s.setRoute n { s.route n with config := c } := if_neg hd
    rw [he] at hr ⊢
    exact ⟨hr, hs.counts.same hset, hs.list, hs.full.same hset rfl⟩

theorem writeRoute_sound {n : SourceId} {c : RouteConfig} (hr : (s.storeRoute n c).RoutesLegal) (hs : Sound s) :
    Sound (s.writeRoute n c) := by
  have hstore := storeRoute_sound hr hs
  unfold State.writeRoute State.enableRearm
  split
  · split
    · exact hstore
    · exact levelRecheck_sound _ hstore
  · exact hstore

theorem purgeRecord_sound (i : SlotId) (hs : Sound s) : Sound (s.purgeRecord i) :=
  judge_sound i (withdraw_sound i (modifyRecord_sound i (fun _ => rfl) hs))

theorem purgeSource_sound (n : SourceId) (hs : Sound s) : Sound (s.purgeSource n) :=
  foldl_keeps (P := Sound) (fun _ i ht => purgeRecord_sound i ht) _ (dropWaiting_sound n hs)

theorem endStale_sound (i : SlotId) (h : HostId) (hs : Sound s) : Sound (s.endStale i h) := by
  unfold State.endStale
  split
  · exact hs
  · split
    · exact setDeliv_sound h _ (setCopy_sound i h _ hs)
    · exact hs

/-- With nothing waiting, a record that FLUSHALL retires leaves the pool legal without a handoff (R21). -/
theorem closeRecord_sound {i : SlotId} {r : Record} (hr : s.record? i = some r) (hw : s.waitList = []) (hs : Sound s) :
    Sound (s.closeRecord i r) := by
  have hwait := (waitList_closeRecord s i r).trans hw
  exact ⟨routesLegal_of_kept (closeRecord_kept s i r) hs.routes, closeRecord_countsLegal hr hs.counts,
    by rw [hwait]; exact listLegal_nil, fun hne => absurd hwait hne⟩

theorem flushing_recordsKept (s : State) (i : SlotId) :
    RecordsKept Record.source s (allHosts.foldl (fun u h => u.endStale i h) ((s.markPurged i).withdraw i)) := by
  refine (purging_recordsKept s i).trans (.foldl (fun u h => ?_) _ _)
  unfold State.endStale
  split
  · exact .refl _ u
  · split
    · exact ((setCopy_recordsKept u i h _).map Record.source).trans (.of_store rfl rfl rfl rfl)
    · exact .refl _ u

theorem flushRecord_sound (i : SlotId) (hs : Sound s ∧ s.waitList = []) :
    Sound (s.flushRecord i) ∧ (s.flushRecord i).waitList = [] := by
  obtain ⟨hs, hw⟩ := hs
  obtain ⟨t, -, ht, hcases⟩ := flushRecord_cases s i
  have hkept := flushing_recordsKept s i
  have hsound : Sound t := by
    rw [ht]
    exact foldl_keeps (P := Sound) (fun _ h hu => endStale_sound i h hu) _
      (withdraw_sound i (modifyRecord_sound i (fun _ => rfl) hs))
  rw [← ht] at hkept
  have hwt := hkept.waitList.trans hw
  rcases hcases with ⟨he, -⟩ | ⟨r, hr, -, he⟩
  · rw [he]
    exact ⟨hsound, hwt⟩
  · rw [he]
    exact ⟨closeRecord_sound hr hwt hsound, (waitList_closeRecord t i r).trans hwt⟩

theorem flushStores_sound (hs : Sound s) : Sound s.flushStores := by
  have hempty : Sound { s with waitList := [] } :=
    ⟨hs.routes, hs.counts.same ⟨fun _ => rfl, rfl, rfl, fun _ => rfl⟩, listLegal_nil, fun hne => absurd rfl hne⟩
  have hrecords := foldl_keeps (P := fun t => Sound t ∧ t.waitList = []) (fun _ i ht => flushRecord_sound i ht) s.liveSlots
    ⟨hempty, rfl⟩
  unfold State.flushStores
  exact foldl_keeps (P := Sound) (fun _ h ht => setDeliv_sound h _ ht) _ hrecords.1

theorem flushAll_sound (hs : Sound s) : Sound s.flushAll := by
  refine foldl_keeps (P := Sound) (fun t n ht => ?_) _ (flushStores_sound hs)
  unfold State.flushRearm
  split
  · exact admission_sound _ ht
  · exact ht

/-! ## The events -/

theorem sound_rule {p : HostId} (hs : Sound s) (h : RuleEffect s p t) : Sound t := by
  have hroutes := routesLegal_rule hs.routes h
  cases h with
  | nothing => exact hs
  | openSession grace wake => exact openSession_sound p grace wake hs
  | reopenSession grace wake => exact admission_sound _ (openSession_sound p grace wake hs)
  | freshSession grace wake => exact openSession_sound p grace wake (cleanup_sound p (setHost_sound p _ hs))
  | detach => exact cleanup_sound p (setHost_sound p _ hs)
  | sleep => exact mapCopies_sound p _ (setHost_sound p _ hs)
  | level => exact setDeliv_sound p _ hs
  | take i => exact takeHead_sound p i hs
  | ackTaken i c => exact judge_sound i (satisfy_sound i (setDeliv_sound p _ (setCopy_sound i p _ hs)))
  | ackOverdue i c => exact judge_sound i (setDeliv_sound p _ (escalate_sound i p (setCopy_sound i p _ hs)))
  | ackStale i c => exact judge_sound i (setDeliv_sound p _ (setCopy_sound i p _ hs))
  | noTarget n => exact hs.same (setLastOutcome_kept s n _) (setLastOutcome_sameCounts s n _) rfl
  | post n i payload receipt hosts esc _ _ _ _ hr ha => exact createPost_sound payload receipt hr ha hs
  | receipt x later => exact setPostUnit_sound p _ hs
  | routeWrite n c => exact writeRoute_sound (routesLegal_congr (fun m => ((writeRoute_kept s n c).config m).symm)
      (writeRoute_kept s n c).administrator.symm hroutes) hs
  | purge n => exact purgeSource_sound n hs
  | lineWrite n c =>
    exact ⟨hroutes, hs.counts.same ⟨fun _ => rfl, rfl, rfl, fun _ => rfl⟩, hs.list, hs.full.same ⟨fun _ => rfl, rfl, rfl, fun _ => rfl⟩ rfl⟩
  | flushAll => exact flushAll_sound hs
  | restore => exact ⟨hroutes, hs.counts.same ⟨fun _ => rfl, rfl, rfl, fun _ => rfl⟩, hs.list, hs.full.same ⟨fun _ => rfl, rfl, rfl, fun _ => rfl⟩ rfl⟩

/-- Ports, lines, the clock and the queue of commands are no part of the pool. -/
theorem Sound.of_pool (hs : Sound s) (hst : t.store = s.store) (hr : t.routes = s.routes) (hw : t.waitList = s.waitList)
    (ha : t.administrator = s.administrator) : Sound t := by
  have hroute : ∀ n, t.route n = s.route n := fun n => by unfold State.route; rw [hr]
  have hc : SameCounts s t := ⟨fun i => by rw [record?_of_store hst], by rw [hst], by rw [hst], fun n => by rw [hroute]⟩
  exact ⟨routesLegal_congr (fun n => by rw [hroute]) ha hs.routes, hs.counts.same hc, hw ▸ hs.list, hs.full.same hc hw⟩

theorem millisecond_sound (hs : Sound s) : Sound s.millisecond := by
  have hc : SameCounts s s.millisecond := ⟨fun i => by
    rw [record?_millisecond, Option.map_map]
    rfl, rfl, rfl, fun _ => rfl⟩
  exact ⟨routesLegal_keptByEvents.millisecond s hs.routes, hs.counts.same hc, hs.list, hs.full.same hc rfl⟩

theorem sampleLine_sound (n : LineId) (b : Bool) (hs : Sound s) : Sound (s.sampleLine n b) := by
  have hset : Sound (s.setLine n ((s.line n).sampled b)) := Sound.of_pool hs rfl rfl rfl rfl
  have hlevel : ∀ t : State, Sound t → Sound (t.levelEvent n b) := fun t ht => by
    unfold State.levelEvent
    split
    · exact admission_sound _ ht
    · exact ht
  unfold State.sampleLine State.qualifiedChange
  dsimp only
  split_ifs
  · exact hlevel _ hset
  · exact admission_sound _ hset
  · exact hlevel _ hset
  · exact hset

theorem lossDetected_sound (hs : Sound s) : Sound s.lossDetected := by
  unfold State.lossDetected
  split_ifs
  · exact admission_sound _ (Sound.of_pool hs rfl rfl rfl rfl)
  · exact Sound.of_pool hs rfl rfl rfl rfl
  · exact hs

theorem deviceReset_sound (s : State) (pins : ResetPins) : Sound (s.deviceReset pins) := by
  have h := resetWith_poolLegal (adm := pins.straps)
  exact Sound.of_pool (sound_iff.mpr ⟨resetWith_routesLegal pins.straps, h.1, h.2⟩) rfl rfl rfl rfl

end

theorem sound_keptByEvents : KeptByEvents Sound where
  reset s pins _ := deviceReset_sound s pins
  queue _ _ hs := Sound.of_pool hs rfl rfl rfl rfl
  port _ _ _ hs := Sound.of_pool hs rfl rfl rfl rfl
  drive _ hs := Sound.of_pool hs rfl rfl rfl rfl
  awake _ p hs := returnToRun_sound p hs
  rule _ _ _ _ hs h := sound_rule hs h
  millisecond _ hs := millisecond_sound hs
  sample _ _ levels order hs :=
    sampleAll_keeps (P := Sound) levels order (fun _ n b hu _ => sampleLine_sound n b hu) (Sound.of_pool hs rfl rfl rfl rfl)
  deadline _ i h hs := deadlineExpiry_sound i h hs
  loss _ h hs := loseHost_sound h hs
  refLost _ hs := lossDetected_sound hs
  risingEdge _ hs := Sound.of_pool hs rfl rfl rfl rfl
  stable _ hs := Sound.of_pool hs rfl rfl rfl rfl
  cycle _ hs := Sound.of_pool hs rfl rfl rfl rfl

/-- Settles O56: every event keeps the counts, the entries and the full pool. -/
theorem poolAndWaitListStayLegal : Obligations.PoolAndWaitListStayLegal := by
  intro s t hr hw hp h
  obtain ⟨-, hwait, hpool⟩ := sound_iff.mp (sound_keptByEvents.step (sound_iff.mpr ⟨hr, hw, hp⟩) h)
  exact ⟨hwait, hpool⟩

end Sys2Proof.Proofs.PoolEvents
end

section
/-! PROOFS. FLUSHALL up to the re-arm of the lines: every live record purged, ended and retired in ascending slot order (R21, R22). -/

namespace Sys2Proof.Proofs.Flush

open Sys2Proof Sys2Proof.Machine Sys2Proof.Proofs.StepEffects Sys2Proof.Proofs.Configuration Sys2Proof.Proofs.RecordLife
  Sys2Proof.Proofs.QueueOrder Sys2Proof.Proofs.HostsAndReceipts Sys2Proof.Proofs.HostCommands Sys2Proof.Proofs.CopyLife
  Sys2Proof.Proofs.Acknowledgement Sys2Proof.Proofs.Pool Sys2Proof.Proofs.PoolEvents

/-- A property of what is done and of the state, carried along a run over a list. -/
theorem foldl_along {α β : Type} {P : List α → β → Prop} {f : β → α → β} {l : List α} {b : β} (h0 : P [] b)
    (hstep : ∀ d x rest v, l = d ++ x :: rest → P d v → P (d ++ [x]) (f v x)) : P l (l.foldl f b) := by
  have hrun : ∀ rest d v, l = d ++ rest → P d v → P l (rest.foldl f v) := by
    intro rest
    induction rest with
    | nil =>
      intro d v hl hd
      rw [hl, List.append_nil]
      exact hd
    | cons x rest ih =>
      intro d v hl hd
      exact ih (d ++ [x]) (f v x) (by rw [hl, List.append_assoc]; rfl) (hstep d x rest v hl hd)
  exact hrun l [] b rfl h0

/-! ## One record -/

/-- Threshold and accepting flag of every host are as before (R91). -/
def SameGates (s t : State) : Prop :=
  ∀ h, (t.deliv h).threshold = (s.deliv h).threshold ∧ (t.deliv h).accepting = (s.deliv h).accepting

section
variable {s t u : State} {i : SlotId} {r : Record}

theorem SameGates.refl (s : State) : SameGates s s := fun _ => ⟨rfl, rfl⟩

theorem SameGates.trans (h : SameGates s t) (k : SameGates t u) : SameGates s u := fun x =>
  ⟨(k x).1.trans (h x).1, (k x).2.trans (h x).2⟩

theorem SameGates.of_delivery (h : t.delivery = s.delivery) : SameGates s t := fun k => by
  rw [deliv_of_delivery h]
  exact ⟨rfl, rfl⟩

theorem endStale_sameGates (s : State) (i : SlotId) (h : HostId) : SameGates s (s.endStale i h) := by
  unfold State.endStale
  split
  · exact .refl s
  · split
    · intro k
      rw [deliv_setDeliv]
      split_ifs with e
      · rw [e]
        exact ⟨rfl, rfl⟩
      · rw [deliv_setCopy]
        exact ⟨rfl, rfl⟩
    · exact .refl s

theorem foldl_sameGates {α : Type} {f : State → α → State} (hf : ∀ s x, SameGates s (f s x)) (l : List α) (s : State) :
    SameGates s (l.foldl f s) := by
  induction l generalizing s with
  | nil => exact .refl s
  | cons x xs ih => exact (hf s x).trans (ih _)

theorem withdraw_sameGates (s : State) (i : SlotId) : SameGates s (s.withdraw i) := fun h => by
  rw [deliv_withdraw]
  exact ⟨rfl, rfl⟩

/-- A live record's part of FLUSHALL is the ending of its copies and the closing of the record so flushed (R21). -/
theorem flushRecord_of_record (hr : s.record? i = some r) :
    ∃ t, RecordsKept Record.source s t ∧ OnlySlot i s t ∧ Kept s t ∧ t.hosts = s.hosts ∧ SameGates s t
      ∧ t.record? i = some r.flushed ∧ s.flushRecord i = t.closeRecord i r.flushed := by
  obtain ⟨t, honly, ht, hcases⟩ := flushRecord_cases s i
  have hrec : t.record? i = some r.flushed := by
    rw [ht, record?_flushed, hr]
    rfl
  refine ⟨t, ht ▸ flushing_recordsKept s i, honly, ?_, ?_, ?_, hrec, ?_⟩
  · rw [ht]
    exact ((markPurged_kept s i).trans (withdraw_kept _ i)).trans (Kept.foldl _ (fun u h => endStale_kept u i h) allHosts _)
  · rw [ht, foldl_hosts (fun u h => endStale_hosts u i h), withdraw_hosts, markPurged_hosts]
  · rw [ht]
    exact ((SameGates.of_delivery (Cleanup.modifyRecord_delivery s i _)).trans (withdraw_sameGates _ i)).trans
      (foldl_sameGates (fun u h => endStale_sameGates u i h) allHosts _)
  · rcases hcases with ⟨-, hopen⟩ | ⟨r', hr', -, he⟩
    · exact absurd (hopen _ hrec) (by simp [flushed_finished])
    · rw [hrec] at hr'
      cases hr'
      exact he

theorem flushed_source (r : Record) : r.flushed.source = r.source := rfl

theorem flushed_reservedBy (r : Record) (h : HostId) : r.flushed.reservedBy h = r.reservedBy h := rfl

theorem births_closeRecord (s : State) (i : SlotId) (r : Record) : (s.closeRecord i r).store.births = s.store.births := by
  rw [closeRecord_eq]

theorem lastOutcome_closeRecord (s : State) (i : SlotId) (r : Record) (n : SourceId) :
    ((s.closeRecord i r).route n).lastOutcome = if r.source = n then .ended r.outcome else (s.route n).lastOutcome := by
  rw [closeRecord_eq]
  show (State.route (s.setRoute r.source _) n).lastOutcome = _
  rw [route_setRoute]
  by_cases e : n = r.source
  · subst e
    simp
  · simp [e, Ne.symm e]

/-- The receipt that the retirement of a record gives (R133). -/
def receiptOf (s : State) (i : SlotId) (r : Record) : Receipt :=
  { generation := (s.slot i).generation, slot := i, source := r.source, outcome := r.outcome, time := s.clock.timebase }

theorem postUnit_closeRecord (s : State) (i : SlotId) (r : Record) (h : HostId) :
    (s.closeRecord i r).postUnit h =
      if r.reservedBy h = true then
        { receipts := (s.postUnit h).receipts ++ [receiptOf s i r], reservations := (s.postUnit h).reservations - 1 }
      else s.postUnit h := by
  rw [closeRecord_eq]
  exact vget_vof _ h

end

/-! ## All records -/

/-- The receipt that FLUSHALL gives host `h` for the record in slot `i`, if there is one that `h` posted (R21, R133). -/
def flushReceipt (s : State) (h : HostId) (i : SlotId) : Option Receipt :=
  match s.record? i with
  | none => none
  | some r => if r.reservedBy h = true then some (receiptOf s i r.flushed) else none

/-- The state of a FLUSHALL that began at `s` and has retired the records in the slots of `done`. -/
structure Flushing (s : State) (done : List SlotId) (v : State) : Prop where
  kept : Kept s v
  slot : ∀ i, v.slot i = if i ∈ done then { generation := (s.slot i).generation + 1, record := none } else s.slot i
  births : v.store.births = s.store.births
  waitList : v.waitList = s.waitList
  counts : v.CountsAgree
  last : ∀ n, ∀ i ∈ done, ∀ r, s.record? i = some r → r.source = n →
    (∀ j ∈ done, i < j → ∀ r', s.record? j = some r' → r'.source ≠ n) → (v.route n).lastOutcome = .ended r.flushed.outcome
  untouched : ∀ n, (∀ i ∈ done, ∀ r, s.record? i = some r → r.source ≠ n) → (v.route n).lastOutcome = (s.route n).lastOutcome
  posts : ∀ h, v.postUnit h =
    { receipts := (s.postUnit h).receipts ++ done.filterMap (flushReceipt s h)
      reservations := (s.postUnit h).reservations - done.countP (fun i => (s.record? i).any (Record.reservedBy h)) }
  hosts : v.hosts = s.hosts
  gates : SameGates s v

section
variable {s v : State} {done : List SlotId} {i : SlotId} {r : Record}

theorem Flushing.start (hs : s.CountsAgree) : Flushing s [] s where
  kept := .refl s
  slot _ := by simp
  births := rfl
  waitList := rfl
  counts := hs
  last _ _ hi := by cases hi
  untouched _ _ := rfl
  posts h := by simp
  hosts := rfl
  gates := .refl s

theorem Flushing.step (hv : Flushing s done v) (hr : s.record? i = some r) (hi : i ∉ done) (hlt : ∀ j ∈ done, j < i) :
    Flushing s (done ++ [i]) (v.flushRecord i) := by
  have hslot : v.slot i = s.slot i := (hv.slot i).trans (if_neg hi)
  have hrec : v.record? i = some r := (congrArg Slot.record hslot).trans hr
  obtain ⟨t, hkept, honly, hk, hhosts, hgates, htrec, he⟩ := flushRecord_of_record hrec
  have hroute : ∀ n, t.route n = v.route n := fun n => by unfold State.route; rw [hkept.routes]
  have hgen : (t.slot i).generation = (s.slot i).generation := by rw [hkept.generation, hslot]
  have htime : t.clock = s.clock := hk.clock.trans hv.kept.clock
  have hreceipt : receiptOf t i r.flushed = receiptOf s i r.flushed := by rw [receiptOf, receiptOf, hgen, htime]
  rw [he]
  refine ⟨(hv.kept.trans hk).trans (closeRecord_kept t i _), fun j => ?_, ?_, ?_, ?_, fun n j hj rj hrj hn hlast => ?_,
    fun n hnone => ?_, fun h => ?_, ?_, ?_⟩
  · rw [slot_closeRecord, hgen]
    by_cases e : j = i
    · simp [e]
    · rw [if_neg e, honly j e, hv.slot]
      simp [e]
  · rw [births_closeRecord, hkept.births, hv.births]
  · rw [waitList_closeRecord, hkept.waitList, hv.waitList]
  · exact closeRecord_countsAgree htrec ((SameCounts.of_recordsKept hkept).agree hv.counts)
  · rw [lastOutcome_closeRecord, flushed_source]
    by_cases e : r.source = n
    · rw [if_pos e]
      have hji : j = i := by
        rcases List.mem_append.mp hj with hd | hs
        · exact absurd e (hlast i (by simp) (hlt j hd) r hr)
        · exact List.mem_singleton.mp hs
      rw [hji, hr] at hrj
      cases hrj
      rfl
    · rw [if_neg e, hroute]
      have hd : j ∈ done := by
        rcases List.mem_append.mp hj with hd | hs
        · exact hd
        · rw [List.mem_singleton.mp hs, hr] at hrj
          cases hrj
          exact absurd hn e
      exact hv.last n j hd rj hrj hn fun k hk => hlast k (List.mem_append_left _ hk)
  · rw [lastOutcome_closeRecord, flushed_source, if_neg (hnone i (by simp) r hr), hroute]
    exact hv.untouched n fun j hj => hnone j (List.mem_append_left _ hj)
  · have hpost : t.postUnit h = v.postUnit h := postUnit_of_posts hkept.posts h
    have hone : flushReceipt s h i = if r.reservedBy h = true then some (receiptOf s i r.flushed) else none := by
      simp only [flushReceipt, hr]
    rw [postUnit_closeRecord, flushed_reservedBy, hpost, hv.posts, hreceipt, List.filterMap_append, List.countP_append,
      List.filterMap_cons, List.countP_cons, hone, hr]
    by_cases e : r.reservedBy h = true
    · simp [e, Nat.sub_sub]
    · simp [e]
  · rw [closeRecord_hosts, hhosts, hv.hosts]
  · exact (hv.gates.trans hgates).trans (.of_delivery (closeRecord_delivery t i _))

theorem pairwise_liveSlots (s : State) : s.liveSlots.Pairwise (fun i j => i < j) :=
  List.Pairwise.filter _ (List.pairwise_lt_finRange 48)

theorem flushing_liveSlots (hs : s.CountsAgree) : Flushing s s.liveSlots (s.liveSlots.foldl State.flushRecord s) := by
  refine foldl_along (P := Flushing s) (f := State.flushRecord) (.start hs) fun d i rest v hl hd => ?_
  have hlive : i ∈ s.liveSlots := by rw [hl]; simp
  obtain ⟨r, hr⟩ := Option.isSome_iff_exists.mp (mem_liveSlots.mp hlive)
  have hbefore : ∀ j ∈ d, j < i := fun j hj => by
    have hpair := pairwise_liveSlots s
    rw [hl] at hpair
    exact (List.pairwise_append.mp hpair).2.2 j hj i List.mem_cons_self
  exact hd.step hr (fun hi => absurd (hbefore i hi) (lt_irrefl i)) hbefore

/-! ## The stores emptied -/

/-- `u` holds nothing of the records, entries, queues and stacks of `s`: its routes and posters have the outcomes (R21). -/
structure Flushed (s u : State) : Prop where
  kept : Kept s u
  generation : ∀ i, (u.slot i).generation =
    if (s.record? i).isSome = true then (s.slot i).generation + 1 else (s.slot i).generation
  free : ∀ i, u.record? i = none
  births : u.store.births = s.store.births
  waitList : u.waitList = []
  generalLive : u.store.generalLive = 0
  systemLive : u.store.systemLive = 0
  liveCount : ∀ n, (u.route n).liveCount = 0
  last : ∀ n i r, s.record? i = some r → r.source = n → (∀ j r', i < j → s.record? j = some r' → r'.source ≠ n) →
    (u.route n).lastOutcome = .ended r.flushed.outcome
  untouched : ∀ n, (∀ i r, s.record? i = some r → r.source ≠ n) → (u.route n).lastOutcome = (s.route n).lastOutcome
  posts : ∀ h, u.postUnit h =
    { receipts := (s.postUnit h).receipts ++ allSlots.filterMap (flushReceipt s h)
      reservations := (s.postUnit h).reservations - s.countRecords (Record.reservedBy h) }
  hosts : u.hosts = s.hosts
  deliv : ∀ h, (u.deliv h).same { s.deliv h with queue := [], stack := [], runningLevel := 0 }

theorem filterMap_liveSlots (s : State) (h : HostId) :
    s.liveSlots.filterMap (flushReceipt s h) = allSlots.filterMap (flushReceipt s h) := by
  rw [State.liveSlots, List.filterMap_filter]
  refine List.filterMap_congr fun i _ => ?_
  cases hr : s.record? i <;> simp [flushReceipt, hr]

theorem countP_liveSlots (s : State) (f : Record → Bool) :
    s.liveSlots.countP (fun i => (s.record? i).any f) = s.countRecords f := by
  rw [State.liveSlots, List.countP_filter, countRecords_eq]
  refine List.countP_congr fun i _ => ?_
  cases s.record? i <;> simp

theorem flushed_flushStores (hs : s.CountsAgree) : Flushed s s.flushStores := by
  have hrun : Flushing { s with waitList := [] } s.liveSlots (s.liveSlots.foldl State.flushRecord { s with waitList := [] }) :=
    flushing_liveSlots (s := { s with waitList := [] }) hs
  have hkept := flushStores_kept s
  have hfree := record?_flushStores s
  have hhosts := flushStores_hosts s
  unfold State.flushStores at hkept hfree hhosts ⊢
  generalize s.liveSlots.foldl State.flushRecord { s with waitList := [] } = v at *
  have hdeliv := deliv_foldl_clearDelivery allHosts v
  have hall : allHosts = [0, 1, 2, 3] := rfl
  have hstore := foldl_clearDelivery_store allHosts v
  have hrest : (allHosts.foldl State.clearDelivery v).routes = v.routes ∧ (allHosts.foldl State.clearDelivery v).posts = v.posts
      ∧ (allHosts.foldl State.clearDelivery v).waitList = v.waitList := by
    rw [hall]
    exact ⟨rfl, rfl, rfl⟩
  generalize allHosts.foldl State.clearDelivery v = u at *
  obtain ⟨hroutes, hposts, hwait⟩ := hrest
  have hroute : ∀ n, u.route n = v.route n := fun n => by unfold State.route; rw [hroutes]
  have hzero : ∀ f, v.countRecords f = 0 := fun f => countRecords_eq_zero fun i r hr => by
    rw [← record?_of_store hstore, hfree] at hr
    cases hr
  obtain ⟨hgeneral, hsystem, hlive⟩ := hrun.counts
  refine ⟨hkept, fun i => ?_, hfree, ?_, hwait.trans hrun.waitList, ?_, ?_, fun n => ?_, fun n i r hr hn hlast => ?_,
    fun n hnone => ?_, fun h => ?_, hhosts, fun h => ?_⟩
  · have hslot : u.slot i = v.slot i := by unfold State.slot; rw [hstore]
    rw [hslot, hrun.slot]
    by_cases hi : (s.record? i).isSome = true
    · rw [if_pos (mem_liveSlots.mpr hi), if_pos hi]
      rfl
    · rw [if_neg (mem_liveSlots.not.mpr hi), if_neg hi]
      rfl
  · rw [hstore, hrun.births]
  · rw [hstore, hgeneral, hzero]
  · rw [hstore, hsystem, hzero]
  · rw [hroute, hlive, hzero]
  · rw [hroute]
    refine hrun.last n i (mem_liveSlots.mpr ?_) r hr hn fun j _ hij r' hr' => hlast j r' hij hr'
    rw [hr]
    rfl
  · rw [hroute]
    exact hrun.untouched n fun i _ r hr => hnone i r hr
  · have hpost : u.postUnit h = v.postUnit h := postUnit_of_posts hposts h
    rw [hpost, hrun.posts, ← filterMap_liveSlots, ← countP_liveSlots]
    rfl
  · obtain ⟨hthreshold, haccepting⟩ := hrun.gates h
    rw [hdeliv, if_pos (mem_allHosts h)]
    exact ⟨rfl, rfl, rfl, hthreshold, haccepting⟩

end

end Sys2Proof.Proofs.Flush
end

section
/-! PROOFS. FLUSHALL's re-arm of the lines, which makes a record for each active level line with an enabled route in the lowest FREE slot
(R22, R110), and the whole command (R20 to R22). -/

namespace Sys2Proof.Proofs.Rearm

open Sys2Proof Sys2Proof.Machine Sys2Proof.Proofs.StepEffects Sys2Proof.Proofs.Configuration Sys2Proof.Proofs.RecordLife
  Sys2Proof.Proofs.QueueOrder Sys2Proof.Proofs.HostsAndReceipts Sys2Proof.Proofs.HostCommands Sys2Proof.Proofs.CopyLife
  Sys2Proof.Proofs.Acknowledgement Sys2Proof.Proofs.Admission Sys2Proof.Proofs.Pool Sys2Proof.Proofs.WaitList
  Sys2Proof.Proofs.PoolEvents Sys2Proof.Proofs.Flush

/-! ## Queues in order of priority and age -/

/-- Slot `i` stands before slot `j` in a queue: of higher priority, or of the same and made before. -/
def Before (prio : SlotId → Nat) (i j : SlotId) : Prop := prio j < prio i ∨ (prio j = prio i ∧ i < j)

theorem Before.le {prio : SlotId → Nat} {i j : SlotId} (h : Before prio i j) : prio j ≤ prio i :=
  h.elim Nat.le_of_lt fun h => Nat.le_of_eq h.1

/-- The slot made last goes behind those of its priority (R87). -/
theorem inserted_pairwise {prio : SlotId → Nat} {k : SlotId} {old new : List SlotId} (h : Inserted prio k old new)
    (hs : old.Pairwise (Before prio)) (hk : ∀ i ∈ old, i < k) : new.Pairwise (Before prio) := by
  obtain ⟨ahead, behind, rfl, rfl, hbehind, hahead⟩ := h
  obtain ⟨hpa, hpb, hpab⟩ := List.pairwise_append.mp hs
  have hge : ∀ a ∈ ahead, Before prio a k := by
    intro a ha
    have hlt := hk a (List.mem_append_left _ ha)
    obtain ⟨l, x, rfl⟩ : ∃ l x, ahead = l ++ [x] :=
      ⟨ahead.dropLast, ahead.getLast (List.ne_nil_of_mem ha), (List.dropLast_append_getLast _).symm⟩
    have hx : prio k ≤ prio x := hahead x (by simp)
    have hax : prio x ≤ prio a := by
      rcases List.mem_append.mp ha with hl | hl
      · exact ((List.pairwise_append.mp hpa).2.2 a hl x (by simp)).le
      · rw [List.mem_singleton.mp hl]
    exact (Nat.lt_or_eq_of_le (hx.trans hax)).imp id fun h => ⟨h, hlt⟩
  refine List.pairwise_append.mpr ⟨hpa, List.pairwise_cons.mpr ⟨fun b hb => .inl (hbehind b hb), hpb⟩, fun a ha b hb => ?_⟩
  rcases List.mem_cons.mp hb with rfl | hb
  · exact hge a ha
  · exact hpab a ha b hb

theorem mem_inserted {prio : SlotId → Nat} {k : SlotId} {old new : List SlotId} (h : Inserted prio k old new) (i : SlotId) :
    i ∈ new ↔ i = k ∨ i ∈ old := by
  obtain ⟨ahead, behind, rfl, rfl, -, -⟩ := h
  simp only [List.mem_append, List.mem_cons]
  tauto

/-! ## The lines raised anew -/

/-- Line `l` is raised anew by FLUSHALL (R22). -/
def rearms (u : State) (l : LineId) : Bool := (u.route (lineSource l)).config.enabled && (u.line l).conditionPresent

/-- Line `l` is raised anew and gets a record. -/
def raises (u : State) (l : LineId) : Bool := rearms u l && (u.recipients (u.route (lineSource l)).config).isSome

/-- Line `l` is raised anew and finds no recipient. -/
def unserved (u : State) (l : LineId) : Bool := rearms u l && (u.recipients (u.route (lineSource l)).config).isNone

/-- The record that line `l` gets, as the number `k` of those raised anew. -/
def raisedRecord (u : State) (k : Nat) (l : LineId) : Option Record :=
  (u.recipients (u.route (lineSource l)).config).map fun x =>
    { madeRecord u (lineSource l) .line false 0 x.1 x.2 with birth := u.store.births + k }

/-- A FLUSHALL that emptied the stores to `u` and has taken the lines of `done`. -/
structure Rearming (u : State) (done : List LineId) (v : State) : Prop where
  kept : Kept u v
  generation : ∀ i, (v.slot i).generation = (u.slot i).generation
  record : ∀ i, v.record? i = ((done.filter (raises u))[i.val]?).bind (raisedRecord u i.val)
  waitList : v.waitList = []
  generalLive : v.store.generalLive = (done.filter (raises u)).length
  systemLive : v.store.systemLive = 0
  births : v.store.births = u.store.births + (done.filter (raises u)).length
  liveCount : ∀ n, (v.route n).liveCount = if n ∈ (done.filter (raises u)).map lineSource then 1 else 0
  outcome : ∀ n, (v.route n).lastOutcome =
    if n ∈ (done.filter (unserved u)).map lineSource then .notarget else (u.route n).lastOutcome
  posts : v.posts = u.posts
  hosts : ∀ h, v.host h =
    if (u.host h).state = .deep ∧ ∃ i, v.isPending h i = true then
      { u.host h with state := .waking, wakeTimer := some (u.host h).wakeLimit }
    else u.host h
  deliv : ∀ h, v.deliv h = { u.deliv h with queue := (v.deliv h).queue }
  queue : ∀ h i, i ∈ (v.deliv h).queue ↔ v.copy? i h ≠ none
  sorted : ∀ h, (v.deliv h).queue.Pairwise (Before v.priorityOf)

theorem lineSource_injective : Function.Injective lineSource := fun a b h => by
  have := congrArg Fin.val h
  exact Fin.ext this

section
variable {s u v t : State} {done : List LineId} {l : LineId} {k : SlotId} {hosts : List HostId} {esc : Bool}

theorem Rearming.start (hu : Flushed s u) : Rearming u [] u where
  kept := .refl u
  generation _ := rfl
  record i := hu.free i
  waitList := hu.waitList
  generalLive := hu.generalLive
  systemLive := hu.systemLive
  births := rfl
  liveCount n := by simp [hu.liveCount]
  outcome n := by simp
  posts := rfl
  hosts h := by
    have hno : ¬ ∃ i, u.isPending h i = true := by
      rintro ⟨i, hi⟩
      simp [State.isPending, copy?_of_free (hu.free i)] at hi
    rw [if_neg fun hc => hno hc.2]
  deliv _ := rfl
  queue h i := by
    rw [(hu.deliv h).1, copy?_of_free (hu.free i)]
    simp
  sorted h := by
    rw [(hu.deliv h).1]
    exact List.Pairwise.nil

theorem Rearming.onlyWoken (hv : Rearming u done v) : OnlyWoken u v := fun h => by
  rw [hv.hosts]
  split_ifs with hc
  · exact .inr ⟨hc.1, rfl⟩
  · exact .inl rfl

theorem recipients_congr (hu : ∀ h, v.usable h = u.usable h) (c : RouteConfig) : v.recipients c = u.recipients c := by
  unfold State.recipients
  simp only [hu]

/-- Whom a line's record goes to is decided by the state that FLUSHALL emptied. -/
theorem Rearming.recipients (hv : Rearming u done v) (l : LineId) :
    v.recipients (v.route (lineSource l)).config = u.recipients (u.route (lineSource l)).config := by
  rw [hv.kept.config]
  exact recipients_congr hv.onlyWoken.usable _

theorem Rearming.rearms (hv : Rearming u done v) (l : LineId) : rearms v l = rearms u l := by
  unfold Rearm.rearms
  rw [hv.kept.config, show v.line l = u.line l from congrArg (fun x => vget x l) hv.kept.lines]

/-- A line with nothing to raise is passed over. -/
theorem Rearming.skip (hv : Rearming u done v) (h1 : raises u l = false) (h2 : unserved u l = false) :
    Rearming u (done ++ [l]) v := by
  have hr : (done ++ [l]).filter (raises u) = done.filter (raises u) := by simp [List.filter_append, h1]
  have hn : (done ++ [l]).filter (unserved u) = done.filter (unserved u) := by simp [List.filter_append, h2]
  obtain ⟨a, b, c, d, e, f, g, h, i, j, k, m, n, o⟩ := hv
  rw [← hr] at c e g h
  rw [← hn] at i
  exact ⟨a, b, c, d, e, f, g, h, i, j, k, m, n, o⟩

/-- A line that finds no recipient sets NOTARGET (R48). -/
theorem Rearming.unserved (hv : Rearming u done v) (h1 : raises u l = false) (h2 : unserved u l = true) :
    Rearming u (done ++ [l]) (v.setRoute (lineSource l) { v.route (lineSource l) with lastOutcome := .notarget }) := by
  have hr : (done ++ [l]).filter (raises u) = done.filter (raises u) := by simp [List.filter_append, h1]
  have hn : (done ++ [l]).filter (Rearm.unserved u) = done.filter (Rearm.unserved u) ++ [l] := by simp [List.filter_append, h2]
  obtain ⟨a, b, c, d, e, f, g, h, i, j, k, m, n, o⟩ := hv
  rw [← hr] at c e g h
  refine ⟨a.trans (setLastOutcome_kept v (lineSource l) .notarget), b, c, d, e, f, g, fun x => ?_, fun x => ?_, j, k, m, n, o⟩
  · rw [← h x, route_setRoute]
    split_ifs with hx
    · rw [hx]
    · rfl
  · rw [route_setRoute, hn, List.map_append]
    by_cases hx : x = lineSource l
    · simp [hx]
    · rw [if_neg hx, i]
      simp [hx]

/-! ## The record made for a line -/

/-- The record made now is the one that the emptied state would have made, but for its number. -/
theorem Rearming.madeRecord (hv : Rearming u done v) (l : LineId) (hosts : List HostId) (esc : Bool) :
    madeRecord v (lineSource l) .line false 0 hosts esc =
      { madeRecord u (lineSource l) .line false 0 hosts esc with
        birth := u.store.births + (done.filter (raises u)).length } := by
  have hcopy := fun h => Cleanup.madeCopyState_woken hv.onlyWoken h (u.route (lineSource l)).config.deepWake
  unfold Machine.madeRecord
  rw [hv.kept.config, hv.kept.clock, hv.births]
  simp only [hcopy]

theorem Rearming.lt_of_record (hv : Rearming u done v) {i : SlotId} (h : v.record? i ≠ none) :
    i.val < (done.filter (raises u)).length := by
  by_contra hge
  refine h ?_
  rw [hv.record, List.getElem?_eq_none (Nat.le_of_not_lt hge)]
  rfl

theorem Rearming.lowestFree (hv : Rearming u done v) (hk : k.val = (done.filter (raises u)).length) : LowestFree v k := by
  refine ⟨?_, fun j hj => ?_⟩
  · rw [hv.record, List.getElem?_eq_none (Nat.le_of_eq hk.symm)]
    rfl
  · have hlt : j.val < (done.filter (raises u)).length := hk ▸ hj
    have hraises : raises u (done.filter (raises u))[j.val] = true := (List.mem_filter.mp (List.getElem_mem hlt)).2
    rw [hv.record, List.getElem?_eq_getElem hlt]
    simp only [raises, Bool.and_eq_true] at hraises
    obtain ⟨x, hx⟩ := Option.isSome_iff_exists.mp hraises.2
    simp [raisedRecord, hx]

theorem copy_madeRecord (s : State) (n : SourceId) (x : Particulars) (hosts : List HostId) (esc : Bool) (h : HostId) :
    (madeRecord s n x false 0 hosts esc).copy h =
      if h ∈ hosts then
        some { state := madeCopyState (s.host h).state (s.route n).config.deepWake
               deadline := if esc = true ∨ (s.route n).config.deadline = 0 then none else some (s.route n).config.deadline
               grace := none, escalation := esc }
      else none := vget_vof _ h

theorem copy?_created {r : Record} (hc : Created v t k r hosts) (i : SlotId) (h : HostId) :
    t.copy? i h = if i = k then r.copy h else v.copy? i h := by
  split_ifs with e
  · exact copy?_of_record (by rw [created_record? hc, if_pos e]) h
  · exact copy?_congr (by rw [created_record? hc, if_neg e]) h

/-- Whether a host is offered a PENDING copy after a record was made for it (Table 3-3). -/
theorem pending_created (hfree : v.record? k = none) {n : SourceId} {x : Particulars}
    (hc : Created v t k (madeRecord v n x false 0 hosts esc) hosts) (h : HostId) :
    (∃ i, t.isPending h i = true) ↔ (∃ i, v.isPending h i = true)
      ∨ (h ∈ hosts ∧ madeCopyState (v.host h).state (v.route n).config.deepWake = .pending) := by
  have hat : ∀ i, t.isPending h i = true ↔ (i ≠ k ∧ v.isPending h i = true)
      ∨ (i = k ∧ h ∈ hosts ∧ madeCopyState (v.host h).state (v.route n).config.deepWake = .pending) := fun i => by
    unfold State.isPending
    rw [copy?_created hc]
    by_cases e : i = k
    · rw [if_pos e, copy_madeRecord]
      by_cases hh : h ∈ hosts <;> simp [e, hh]
    · simp [e]
  have hk : v.isPending h k = false := by simp [State.isPending, copy?_of_free hfree]
  constructor
  · rintro ⟨i, hi⟩
    rcases (hat i).mp hi with ⟨-, hv⟩ | ⟨-, hnew⟩
    · exact .inl ⟨i, hv⟩
    · exact .inr hnew
  · rintro (⟨i, hi⟩ | hnew)
    · refine ⟨i, (hat i).mpr (.inl ⟨fun e => ?_, hi⟩)⟩
      rw [e, hk] at hi
      cases hi
    · exact ⟨k, (hat k).mpr (.inr ⟨rfl, hnew⟩)⟩

/-- The hosts after a record was made for them: DEEP ones that were or are now offered a PENDING copy are WAKING (R148). -/
theorem Rearming.hosts_created (hv : Rearming u done v) (hfree : v.record? k = none) {n : SourceId} {x : Particulars}
    (hc : Created v t k (Machine.madeRecord v n x false 0 hosts esc) hosts) (h : HostId) :
    t.host h = if (u.host h).state = .deep ∧ ∃ i, t.isPending h i = true then
      { u.host h with state := .waking, wakeTimer := some (u.host h).wakeLimit } else u.host h := by
  have hold := hv.hosts h
  simp only [pending_created hfree hc h]
  by_cases hh : h ∈ hosts
  · rw [hc.woken h hh, show (Machine.madeRecord v n x false 0 hosts esc).deepWake = (v.route n).config.deepWake from rfl]
    by_cases hd : (u.host h).state = .deep
    · by_cases hp : ∃ i, v.isPending h i = true
      · rw [if_pos ⟨hd, hp⟩] at hold
        rw [hold, if_pos ⟨hd, .inl hp⟩]
        simp [HostRecord.woken]
      · rw [if_neg fun hc => hp hc.2] at hold
        rw [hold]
        cases hdw : (v.route n).config.deepWake <;> simp [HostRecord.woken, hd, hp, hh, madeCopyState]
    · rw [if_neg fun hc => hd hc.1] at hold
      rw [hold, if_neg fun hc => hd hc.1]
      simp [HostRecord.woken, hd]
  · rw [hc.otherHosts h hh, hold]
    simp [hh]

/-- A line with recipients gets the record of the next number (R50, R110). -/
theorem Rearming.raised (hv : Rearming u done v) (h1 : raises u l = true) (h2 : Rearm.unserved u l = false) (hl : l ∉ done)
    (hk : k.val = (done.filter (raises u)).length)
    (hr : Recipients u (u.route (lineSource l)).config hosts esc)
    (hc : Created v t k (Machine.madeRecord v (lineSource l) .line false 0 hosts esc) hosts) (hkept : Kept v t) :
    Rearming u (done ++ [l]) t := by
  have hfilter : (done ++ [l]).filter (raises u) = done.filter (raises u) ++ [l] := by simp [List.filter_append, h1]
  have hquiet : (done ++ [l]).filter (Rearm.unserved u) = done.filter (Rearm.unserved u) := by simp [List.filter_append, h2]
  have hfree : v.record? k = none := (hv.lowestFree hk).1
  have hsys : isSystem (lineSource l) = false := isSystem_of_lt (by show l.val < 28; omega)
  have hlength : (done.filter (raises u) ++ [l]).length = (done.filter (raises u)).length + 1 := by simp
  have hlive : ∀ i, v.record? i ≠ none → i < k := fun i hi => by
    have := hv.lt_of_record hi
    exact Fin.lt_def.mpr (by omega)
  have hroute : ∀ n, (t.route n) = if n = lineSource l then
      { v.route (lineSource l) with liveCount := (v.route (lineSource l)).liveCount + 1 } else v.route n := fun n => by
    split_ifs with e
    · rw [e]
      exact hc.route
    · exact hc.otherRoutes n e
  have hnew : l ∉ done.filter (raises u) := fun h => hl (List.mem_of_mem_filter h)
  have hmem : ∀ h i, i ∈ (v.deliv h).queue → i < k := fun h i hi => hlive i fun hnone =>
    (hv.queue h i).mp hi (copy?_of_free hnone h)
  have hprio : ∀ i, i ≠ k → t.priorityOf i = v.priorityOf i := fun i hi => by
    unfold State.priorityOf
    rw [created_record? hc, if_neg hi]
  have hsorted : ∀ h, (v.deliv h).queue.Pairwise (Before t.priorityOf) := fun h =>
    (hv.sorted h).imp_of_mem fun ha hb hab => by
      unfold Before
      rw [hprio _ (ne_of_lt (hmem h _ ha)), hprio _ (ne_of_lt (hmem h _ hb))]
      exact hab
  refine ⟨hv.kept.trans hkept, fun i => ?_, fun i => ?_, hc.waitList.trans hv.waitList, ?_, ?_, ?_, fun n => ?_, fun n => ?_,
    hc.posts.trans hv.posts, hv.hosts_created hfree hc, fun h => ?_, fun h i => ?_, fun h => ?_⟩
  · by_cases e : i = k
    · rw [e, hc.slot, ← hv.generation]
    · rw [hc.otherSlots i e, hv.generation]
  · rw [created_record? hc, hfilter]
    split_ifs with e
    · rw [e, List.getElem?_append_right (Nat.le_of_eq hk.symm), hk, Nat.sub_self, hv.madeRecord]
      simp only [List.getElem?_cons_zero, Option.bind_some, raisedRecord, recipients_eq_some.mpr hr, Option.map_some]
    · rw [hv.record]
      by_cases hlt : i.val < (done.filter (raises u)).length
      · rw [List.getElem?_append_left hlt]
      · have hne : i.val ≠ k.val := fun h => e (Fin.ext h)
        rw [List.getElem?_eq_none (by omega), List.getElem?_eq_none (by omega)]
  · rw [hc.generalLive, hfilter, hlength, hv.generalLive]
    exact congrArg _ (by rw [show (Machine.madeRecord v (lineSource l) .line false 0 hosts esc).source = lineSource l from rfl, hsys]; rfl)
  · rw [hc.systemLive, hv.systemLive]
    rw [show (Machine.madeRecord v (lineSource l) .line false 0 hosts esc).source = lineSource l from rfl, hsys]
    rfl
  · rw [hc.births, hv.births, hfilter, hlength, Nat.add_assoc]
  · rw [hroute, hfilter, List.map_append]
    by_cases e : n = lineSource l
    · subst e
      rw [if_pos rfl, hv.liveCount, if_neg, if_pos (by simp)]
      rw [List.mem_map]
      rintro ⟨m, hm, he⟩
      exact hnew (lineSource_injective he ▸ hm)
    · rw [if_neg e, hv.liveCount]
      simp [e]
  · rw [hroute, hquiet, ← hv.outcome]
    split_ifs with e
    · rw [e]
    · rfl
  · by_cases hh : h ∈ hosts
    · rw [(hc.offered h hh).2, hv.deliv]
    · rw [hc.otherQueues h hh, hv.deliv]
  · rw [copy?_created hc, copy_madeRecord]
    by_cases hh : h ∈ hosts
    · rw [mem_inserted (hc.offered h hh).1, hv.queue]
      by_cases e : i = k <;> simp [e, hh]
    · rw [hc.otherQueues h hh, hv.queue]
      by_cases e : i = k
      · simp [e, hh, copy?_of_free hfree]
      · simp [e]
  · by_cases hh : h ∈ hosts
    · exact inserted_pairwise (hc.offered h hh).1 (hsorted h) (hmem h)
    · rw [hc.otherQueues h hh]
      exact hsorted h

theorem flushRearm_eq (v : State) (l : LineId) :
    v.flushRearm l = if rearms v l then v.admission (.line l) else v := rfl

/-- One line's turn. -/
theorem Rearming.step (hv : Rearming u done v) (hu : u.RoutesLegal) (hl : l ∉ done) (hlen : done.length < 24) :
    Rearming u (done ++ [l]) (v.flushRearm l) := by
  have hrec := hv.recipients l
  rw [flushRearm_eq, hv.rearms]
  cases hr : Rearm.rearms u l with
  | false => exact hv.skip (by simp [raises, hr]) (by simp [Rearm.unserved, hr])
  | true =>
    rw [if_pos rfl]
    have henabled : (v.route (lineSource l)).config.enabled = true := by
      rw [hv.kept.config]
      exact (Bool.and_eq_true _ _ ▸ hr :).1
    have hwait : ∀ e ∈ v.waitList, e.source ≠ lineSource l := by rw [hv.waitList]; simp
    have hlive : (v.route (lineSource l)).liveCount = 0 := by
      rw [hv.liveCount, if_neg]
      rw [List.mem_map]
      rintro ⟨m, hm, he⟩
      exact hl (lineSource_injective he ▸ List.mem_of_mem_filter hm)
    have hroom : (v.route (lineSource l)).liveCount < (v.route (lineSource l)).config.depth := by
      obtain ⟨-, -, hd, -⟩ := routesLegal_of_kept hv.kept hu (lineSource l)
      omega
    have hgroup : isGroup (lineSource l) = true → ∀ i r, v.record? i = some r → r.source = lineSource l → r.isOpen = false :=
      fun hg => by
        obtain ⟨g, m, he⟩ := (isGroup_source (.line l)).mp hg
        cases he
    cases hx : u.recipients (u.route (lineSource l)).config with
    | none =>
      obtain ⟨-, hadmit⟩ := admissionWithoutARecord v (.line l) (lineSource l) rfl
      obtain ⟨-, hno⟩ := hadmit henabled hwait hgroup
      rw [hno hroom (recipients_eq_none.mp (hrec.trans hx))]
      exact hv.unserved (by simp [raises, hx]) (by simp [Rearm.unserved, hx, hr])
    | some x =>
      obtain ⟨hosts, esc⟩ := x
      have hle : (done.filter (raises u)).length ≤ done.length := List.length_filter_le ..
      have hlowest := hv.lowestFree (k := ⟨(done.filter (raises u)).length, by omega⟩) rfl
      obtain ⟨hmade, -⟩ := admissionMakesARecordOrWaits v (.line l) (lineSource l) hosts esc rfl henabled hwait hgroup hroom
        (recipients_eq_some.mp (hrec.trans hx))
      have hc := hmade _ (fun _ => by rw [hv.generalLive]; omega)
        (fun hs => absurd hs (by rw [isSystem_of_lt (show (lineSource l).val < 28 from Nat.lt_trans l.isLt (by decide))]; decide)) hlowest
      exact hv.raised (by simp [raises, hx, hr]) (by simp [Rearm.unserved, hx]) hl rfl (recipients_eq_some.mp hx) hc
        (admission_kept v _)

theorem rearming_flushAll (hs : s.CountsAgree) (hr : s.RoutesLegal) : Rearming s.flushStores allLines s.flushAll := by
  have hu := flushed_flushStores hs
  have hroutes := routesLegal_of_kept hu.kept hr
  unfold State.flushAll
  generalize s.flushStores = u at hu hroutes
  refine foldl_along (P := Rearming u) (f := State.flushRearm) (.start hu) fun d x rest v hl hd => hd.step hroutes ?_ ?_
  · have hnodup : (d ++ x :: rest).Nodup := hl ▸ List.nodup_finRange 24
    exact fun hx => (List.nodup_append.mp hnodup).2.2 x hx x List.mem_cons_self rfl
  · have hlen : (d ++ x :: rest).length = 24 := hl ▸ List.length_finRange
    simp only [List.length_append, List.length_cons] at hlen
    omega

end

end Sys2Proof.Proofs.Rearm
end

section
/-! PROOFS. The FLUSHALL command: the stores emptied, then the lines re-armed (R20 to R22, R110). -/

namespace Sys2Proof.Proofs.Flushall

open Sys2Proof Sys2Proof.Machine Sys2Proof.Proofs.StepEffects Sys2Proof.Proofs.Configuration Sys2Proof.Proofs.RecordLife
  Sys2Proof.Proofs.QueueOrder Sys2Proof.Proofs.HostsAndReceipts Sys2Proof.Proofs.HostCommands Sys2Proof.Proofs.CopyLife
  Sys2Proof.Proofs.Acknowledgement Sys2Proof.Proofs.Admission Sys2Proof.Proofs.Pool Sys2Proof.Proofs.WaitList
  Sys2Proof.Proofs.PoolEvents Sys2Proof.Proofs.Flush Sys2Proof.Proofs.Rearm

section
variable {w u : State} {p : HostId} {l : LineId}

theorem flushallRule_of_administrator (hu : w.usable p = true) (ha : w.administrator = p) :
    flushallRule p [] w = (w.flushAll, okWith [byte w.liveSlots.length]) := by
  simp [flushallRule, hu, ha]

theorem length_liveSlots (w : State) : w.liveSlots.length = w.countRecords (fun _ => true) := by
  rw [State.liveSlots, ← List.countP_eq_length_filter, countRecords_eq]
  refine List.countP_congr fun i _ => ?_
  cases w.record? i <;> simp

theorem rearms_iff : rearms w l = true ↔ Rearmed w l := by
  unfold rearms Rearmed
  rw [Bool.and_eq_true, conditionPresent_iff]

theorem isSome_recipients_iff {c : RouteConfig} : (w.recipients c).isSome = true ↔ ¬ NoRecipient w c := by
  rw [← recipients_eq_none, Option.isSome_iff_ne_none]

/-- The emptied state has the hosts of the state that FLUSHALL met. -/
theorem recipients_flushed (hF : Flushed w u) (c : RouteConfig) : u.recipients c = w.recipients c :=
  recipients_congr (fun h => (OnlyWoken.of_hosts hF.hosts).usable h) c

theorem rearms_flushed (hF : Flushed w u) (l : LineId) : rearms u l = rearms w l := by
  unfold rearms
  rw [hF.kept.config, show u.line l = w.line l from congrArg (fun x => vget x l) hF.kept.lines]

theorem raises_iff (hF : Flushed w u) :
    raises u l = true ↔ Rearmed w l ∧ ¬ NoRecipient w (w.route (lineSource l)).config := by
  unfold raises
  rw [Bool.and_eq_true, rearms_flushed hF, rearms_iff, hF.kept.config, recipients_flushed hF, isSome_recipients_iff]

theorem unserved_iff (hF : Flushed w u) :
    unserved u l = true ↔ Rearmed w l ∧ NoRecipient w (w.route (lineSource l)).config := by
  unfold unserved
  rw [Bool.and_eq_true, rearms_flushed hF, rearms_iff, hF.kept.config, recipients_flushed hF, Option.isNone_iff_eq_none,
    recipients_eq_none]

theorem host_flushed (hF : Flushed w u) (h : HostId) : u.host h = w.host h := by
  unfold State.host
  rw [hF.hosts]

theorem madeRecord_flushed (hF : Flushed w u) (n : SourceId) (k : Particulars) (hosts : List HostId) (esc : Bool) :
    madeRecord u n k false 0 hosts esc = madeRecord w n k false 0 hosts esc := by
  unfold madeRecord
  rw [hF.kept.config, hF.kept.clock, hF.births]
  simp only [host_flushed hF]

/-- The lines raised anew, in ascending order, are those that the statement names. -/
theorem raised_eq {raised : List LineId} (hF : Flushed w u) (hpair : raised.Pairwise (fun l m => l < m))
    (hmem : ∀ l, l ∈ raised ↔ Rearmed w l ∧ ¬ NoRecipient w (w.route (lineSource l)).config) :
    allLines.filter (raises u) = raised := by
  refine List.Pairwise.eq_of_mem_iff ((List.pairwise_lt_finRange 24).filter _) hpair fun l => ?_
  rw [List.mem_filter, raises_iff hF, hmem]
  exact and_iff_right (List.mem_finRange l)

end

/-- Settles O41: the stores emptied in ascending slot order, and the lines re-armed in ascending order on the state so emptied. -/
theorem flushallEmptiesTheStore : Obligations.FlushallEmptiesTheStore := by
  rintro s w p raised hcounts hroutes hready rfl hu hadm hpair hmem
  have hagree := (returnToRun_sameCounts s p).agree hcounts
  have hlegal := routesLegal_of_kept (returnToRun_kept s p) hroutes
  generalize hw : s.returnToRun p = w at *
  have hrule : ruleOf .flushall p [] (s.returnToRun p) = (w.flushAll, okWith [byte w.liveSlots.length]) := by
    rw [hw]
    exact flushallRule_of_administrator hu hadm
  have hF := flushed_flushStores hagree
  have hv := rearming_flushAll hagree hlegal
  have hkept := flushAll_kept w
  generalize w.flushStores = u at hF hv
  generalize w.flushAll = x at hv hrule hkept
  have hraised := raised_eq hF hpair hmem
  have hquiet : ∀ n, n ∈ (allLines.filter (unserved u)).map lineSource ↔
      ∃ l, n = lineSource l ∧ Rearmed w l ∧ NoRecipient w (w.route (lineSource l)).config := fun n => by
    simp only [List.mem_map, List.mem_filter, unserved_iff hF]
    constructor
    · rintro ⟨l, ⟨-, hl⟩, rfl⟩
      exact ⟨l, rfl, hl⟩
    · rintro ⟨l, rfl, hl⟩
      exact ⟨l, ⟨List.mem_finRange l, hl⟩, rfl⟩
  have hdeliv := sameDelivery_answered s x p [] (okWith [byte w.liveSlots.length])
  have hhosts := sameHosts_answered s x p [] (okWith [byte w.liveSlots.length])
  refine ⟨_, exec_rowOf_of_ready hready hrule, ?_, fun i => ?_, hv.waitList, fun i hi => ?_, fun i l hosts fallbackOnly hi hr => ?_,
    ?_, hv.systemLive, fun n => ?_, fun l hl hno => ?_, fun n hn => ?_, fun h => ?_, fun h => ?_, fun h i => ?_, fun h => ?_,
    fun h => ?_, ?_, ?_⟩
  · rw [answerOn_answered, length_liveSlots]
    rfl
  · exact (hv.generation i).trans (hF.generation i)
  · refine (hv.record i).trans ?_
    rw [hraised, List.getElem?_eq_none hi]
    rfl
  · refine (hv.record i).trans ?_
    rw [hraised, hi, Option.bind_some, raisedRecord, hF.kept.config, recipients_flushed hF, recipients_eq_some.mpr hr, hF.births,
      Option.map_some, madeRecord_flushed hF]
  · exact hv.generalLive.trans (by rw [hraised])
  · exact (hv.liveCount n).trans (by rw [hraised])
  · exact (hv.outcome _).trans (if_pos ((hquiet _).mpr ⟨l, rfl, hl, hno⟩))
  · have hloud : (x.route n).lastOutcome = (u.route n).lastOutcome := by
      refine (hv.outcome n).trans (if_neg fun hq => ?_)
      obtain ⟨l, hl, hre, hno⟩ := (hquiet n).mp hq
      exact ((hmem l).mp (hn l hl hre)).2 hno
    exact ⟨fun i r hr hsrc hlast => hloud.trans (hF.last n i r hr hsrc hlast), fun hnone => hloud.trans (hF.untouched n hnone)⟩
  · have hpost : x.postUnit h = u.postUnit h := postUnit_of_posts hv.posts h
    exact hpost.trans (hF.posts h)
  · obtain ⟨-, hstack, hlevel, hthreshold, haccepting⟩ := hdeliv h
    obtain ⟨-, ustack, ulevel, uthreshold, uaccepting⟩ := hF.deliv h
    rw [hv.deliv h] at hstack hlevel hthreshold haccepting
    exact ⟨rfl, hstack.trans ustack, hlevel.trans ulevel, hthreshold.trans uthreshold, haccepting.trans uaccepting⟩
  · rw [(hdeliv h).1, copy?_answered]
    exact hv.queue h i
  · rw [(hdeliv h).1]
    exact hv.sorted h
  · have hhost := hhosts h
    rw [hv.hosts h, host_flushed hF] at hhost
    exact hhost
  · exact sameOtherPorts_of_ports hkept.ports (sameOtherPorts_answered s x p [] _)
  · exact SameRest.trans (sameRest_of_kept hkept) (sameRest_answered s x p [] _)

end Sys2Proof.Proofs.Flushall
end

section
/-! PROOFS. What a state wears: its ports and its ATTN and WAKE lines, which no operation of a command reads or writes, so that each
operation is the same on a state dressed anew (R101, R155; log entry 2). -/

namespace Sys2Proof.Proofs.Dress

open Sys2Proof Sys2Proof.Machine Sys2Proof.Proofs.RecordLife

/-- Ports and driven lines for a state to wear. -/
structure Attire where
  ports : Vector Port 4
  attn : HostId → Bool
  wake : HostId → Bool

/-- The state with these ports and lines. -/
def dressed (d : Attire) (s : State) : State :=
  { s with
    ports := d.ports
    delivery := vof (fun h => { s.deliv h with attnLine := d.attn h })
    hosts := vof (fun h => { s.host h with wakeLine := d.wake h }) }

variable (d : Attire) (s : State)

/-! ## What is read -/

@[simp] theorem slot_dressed (i : SlotId) : (dressed d s).slot i = s.slot i := rfl
@[simp] theorem record?_dressed (i : SlotId) : (dressed d s).record? i = s.record? i := rfl
@[simp] theorem copy?_dressed (i : SlotId) (h : HostId) : (dressed d s).copy? i h = s.copy? i h := rfl
@[simp] theorem route_dressed (n : SourceId) : (dressed d s).route n = s.route n := rfl
@[simp] theorem line_dressed (n : LineId) : (dressed d s).line n = s.line n := rfl
@[simp] theorem postUnit_dressed (h : HostId) : (dressed d s).postUnit h = s.postUnit h := rfl
@[simp] theorem clock_dressed : (dressed d s).clock = s.clock := rfl
@[simp] theorem store_dressed : (dressed d s).store = s.store := rfl
@[simp] theorem waitList_dressed : (dressed d s).waitList = s.waitList := rfl
@[simp] theorem administrator_dressed : (dressed d s).administrator = s.administrator := rfl
@[simp] theorem priorityOf_dressed : (dressed d s).priorityOf = s.priorityOf := rfl
@[simp] theorem isPending_dressed : (dressed d s).isPending = s.isPending := rfl
@[simp] theorem slotsOf_dressed (n : SourceId) : (dressed d s).slotsOf n = s.slotsOf n := rfl
@[simp] theorem liveSlots_dressed : (dressed d s).liveSlots = s.liveSlots := rfl
@[simp] theorem allocate?_dressed (n : SourceId) : (dressed d s).allocate? n = s.allocate? n := rfl
@[simp] theorem newRecord_dressed : (dressed d s).newRecord = s.newRecord := rfl
@[simp] theorem newest?_dressed (n : SourceId) : (dressed d s).newest? n = s.newest? n := rfl
@[simp] theorem openRecord?_dressed (n : SourceId) : (dressed d s).openRecord? n = s.openRecord? n := rfl
@[simp] theorem waits_dressed (n : SourceId) : (dressed d s).waits n = s.waits n := rfl
@[simp] theorem resolve_dressed (g i : Byte) : (dressed d s).resolve g i = s.resolve g i := rfl
@[simp] theorem idBytes_dressed (i : SlotId) : (dressed d s).idBytes i = s.idBytes i := rfl
@[simp] theorem summaryAt_dressed (i : SlotId) (h : HostId) : (dressed d s).summaryAt i h = s.summaryAt i h := rfl
@[simp] theorem conditionByte_dressed (i : SlotId) : (dressed d s).conditionByte i = s.conditionByte i := rfl
@[simp] theorem detailPart_dressed (i : SlotId) (b : Bool) : (dressed d s).detailPart i b = s.detailPart i b := rfl
@[simp] theorem deepWakeAt_dressed : (dressed d s).deepWakeAt = s.deepWakeAt := rfl
@[simp] theorem mayEdit_dressed (p : HostId) (n : SourceId) : (dressed d s).mayEdit p n = s.mayEdit p n := rfl
@[simp] theorem routeBytes_dressed (n : SourceId) : (dressed d s).routeBytes n = s.routeBytes n := rfl
@[simp] theorem levelLineSource_dressed (n : SourceId) : (dressed d s).levelLineSource n = s.levelLineSource n := rfl
@[simp] theorem lineBytes_dressed (n : LineId) : (dressed d s).lineBytes n = s.lineBytes n := rfl
@[simp] theorem regroupRefused_dressed (p : HostId) (n : LineId) (b : Byte) :
    (dressed d s).regroupRefused p n b = s.regroupRefused p n b := rfl
@[simp] theorem groupFull_dressed (x y : Option GroupId) : (dressed d s).groupFull x y = s.groupFull x y := rfl
@[simp] theorem receiptsFull_dressed (p : HostId) : (dressed d s).receiptsFull p = s.receiptsFull p := rfl

@[simp] theorem host_dressed (h : HostId) : (dressed d s).host h = { s.host h with wakeLine := d.wake h } := vget_vof _ h
@[simp] theorem deliv_dressed (h : HostId) : (dressed d s).deliv h = { s.deliv h with attnLine := d.attn h } := vget_vof _ h

@[simp] theorem usable_dressed (h : HostId) : (dressed d s).usable h = s.usable h := by simp [State.usable]

@[simp] theorem head?_dressed (h : HostId) : (dressed d s).head? h = s.head? h := by simp [State.head?]

@[simp] theorem aboveGate_dressed (h : HostId) (i : SlotId) : (dressed d s).aboveGate h i = s.aboveGate h i := by
  simp [State.aboveGate]

@[simp] theorem recipients_dressed (c : RouteConfig) : (dressed d s).recipients c = s.recipients c := by
  unfold State.recipients
  simp only [usable_dressed]

@[simp] theorem newCopy_dressed (r : Record) (h : HostId) (esc : Bool) : (dressed d s).newCopy r h esc = s.newCopy r h esc := by
  simp [State.newCopy]

@[simp] theorem withCopies_dressed (r : Record) (hosts : List HostId) (esc : Bool) :
    (dressed d s).withCopies r hosts esc = s.withCopies r hosts esc := by
  simp [State.withCopies]

@[simp] theorem mayEscalate_dressed (r : Record) (f : HostId) : (dressed d s).mayEscalate r f = s.mayEscalate r f := by
  simp [State.mayEscalate]

@[simp] theorem escalatedRecord_dressed (r : Record) (f h : HostId) :
    (dressed d s).escalatedRecord r f h = s.escalatedRecord r f h := by
  simp [State.escalatedRecord]

@[simp] theorem deepWakeOffered_dressed (p : HostId) : (dressed d s).deepWakeOffered p = s.deepWakeOffered p := by
  simp [State.deepWakeOffered]

@[simp] theorem statusBytes_dressed : (dressed d s).statusBytes = s.statusBytes := by
  simp [State.statusBytes, State.freeCounts]

/-! ## What is written -/

@[simp] theorem setRecord_dressed (i : SlotId) (r : Record) : (dressed d s).setRecord i r = dressed d (s.setRecord i r) := rfl
@[simp] theorem setRoute_dressed (n : SourceId) (r : Route) : (dressed d s).setRoute n r = dressed d (s.setRoute n r) := rfl
@[simp] theorem setLastOutcome_dressed (n : SourceId) (o : LastOutcome) :
    (dressed d s).setLastOutcome n o = dressed d (s.setLastOutcome n o) := rfl
@[simp] theorem setLine_dressed (n : LineId) (l : Line) : (dressed d s).setLine n l = dressed d (s.setLine n l) := rfl
@[simp] theorem setPostUnit_dressed (h : HostId) (x : PostUnit) :
    (dressed d s).setPostUnit h x = dressed d (s.setPostUnit h x) := rfl
@[simp] theorem countWaiting_dressed (ev : RawEvent) : (dressed d s).countWaiting ev = dressed d (s.countWaiting ev) := rfl
@[simp] theorem dropWaiting_dressed (n : SourceId) : (dressed d s).dropWaiting n = dressed d (s.dropWaiting n) := rfl
@[simp] theorem mapCopies_dressed (h : HostId) (f : Copy → Copy) :
    (dressed d s).mapCopies h f = dressed d (s.mapCopies h f) := rfl

theorem withWaitList_dressed (l : List WaitEntry) :
    { dressed d s with waitList := l } = dressed d { s with waitList := l } := rfl

@[simp] theorem closeRecord_dressed (i : SlotId) (r : Record) : (dressed d s).closeRecord i r = dressed d (s.closeRecord i r) := by
  rw [closeRecord_eq, closeRecord_eq]
  rfl

/-- A write to a host record writes none of its WAKE line. -/
theorem setHost_dressed {h : HostId} {x y : HostRecord} (hx : x = { y with wakeLine := d.wake h }) :
    (dressed d s).setHost h x = dressed d (s.setHost h y) := by
  have hhosts : vset (vof fun k => { s.host k with wakeLine := d.wake k }) h x
      = vof fun k => { (s.setHost h y).host k with wakeLine := d.wake k } := by
    refine ext_vget fun k => ?_
    rw [vget_vset, vget_vof, vget_vof, host_setHost]
    split_ifs with e
    · rw [hx, e]
    · rfl
  exact congrArg (fun v => { dressed d s with hosts := v }) hhosts

/-- A write to a delivery state writes none of its ATTN line. -/
theorem setDeliv_dressed {h : HostId} {x y : Delivery} (hx : x = { y with attnLine := d.attn h }) :
    (dressed d s).setDeliv h x = dressed d (s.setDeliv h y) := by
  have hdelivery : vset (vof fun k => { s.deliv k with attnLine := d.attn k }) h x
      = vof fun k => { (s.setDeliv h y).deliv k with attnLine := d.attn k } := by
    refine ext_vget fun k => ?_
    rw [vget_vset, vget_vof, vget_vof, deliv_setDeliv]
    split_ifs with e
    · rw [hx, e]
    · rfl
  exact congrArg (fun v => { dressed d s with delivery := v }) hdelivery

@[simp] theorem setHostState_dressed (h : HostId) (x : HostState) :
    (dressed d s).setHostState h x = dressed d (s.setHostState h x) :=
  setHost_dressed d s (by rw [host_dressed])

@[simp] theorem enqueue_dressed (h : HostId) (i : SlotId) : (dressed d s).enqueue h i = dressed d (s.enqueue h i) :=
  setDeliv_dressed d s (by rw [deliv_dressed, priorityOf_dressed])

@[simp] theorem dequeue_dressed (h : HostId) (i : SlotId) : (dressed d s).dequeue h i = dressed d (s.dequeue h i) :=
  setDeliv_dressed d s (by rw [deliv_dressed])

theorem levelOf_dressed (l : List SlotId) : (dressed d s).levelOf l = s.levelOf l := rfl

@[simp] theorem pushStack_dressed (h : HostId) (i : SlotId) : (dressed d s).pushStack h i = dressed d (s.pushStack h i) := by
  unfold State.pushStack
  rw [dequeue_dressed]
  exact setDeliv_dressed d _ (by rw [deliv_dressed, deliv_dressed, priorityOf_dressed])

@[simp] theorem popStack_dressed (h : HostId) : (dressed d s).popStack h = dressed d (s.popStack h) :=
  setDeliv_dressed d s (by rw [deliv_dressed, levelOf_dressed])

@[simp] theorem clearDelivery_dressed (h : HostId) : (dressed d s).clearDelivery h = dressed d (s.clearDelivery h) :=
  setDeliv_dressed d s (by rw [deliv_dressed])

@[simp] theorem wakeFor_dressed (h : HostId) (i : SlotId) : (dressed d s).wakeFor h i = dressed d (s.wakeFor h i) := by
  unfold State.wakeFor
  rw [host_dressed, isPending_dressed]
  split
  · exact setHost_dressed d s rfl
  · rfl

@[simp] theorem modifyRecord_dressed (i : SlotId) (f : Record → Record) :
    (dressed d s).modifyRecord i f = dressed d (s.modifyRecord i f) := by
  unfold State.modifyRecord
  rw [record?_dressed]
  split <;> rfl

@[simp] theorem setCopy_dressed (i : SlotId) (h : HostId) (c : Copy) : (dressed d s).setCopy i h c = dressed d (s.setCopy i h c) :=
  modifyRecord_dressed d s i _

/-- A run of plain operations is plain. -/
theorem foldl_dressed {α : Type} {f : State → α → State} (hf : ∀ s x, f (dressed d s) x = dressed d (f s x)) (l : List α) (s : State) :
    l.foldl f (dressed d s) = dressed d (l.foldl f s) := by
  induction l generalizing s with
  | nil => rfl
  | cons x xs ih => rw [List.foldl_cons, List.foldl_cons, hf, ih]

/-! ## Records made and ended -/

@[simp] theorem createRecord_dressed (i : SlotId) (r : Record) (hosts : List HostId) (esc : Bool) :
    (dressed d s).createRecord i r hosts esc = dressed d (s.createRecord i r hosts esc) := by
  have hclass : (dressed d s).countClass r.source (· + 1) = dressed d (s.countClass r.source (· + 1)) := by
    unfold State.countClass
    split <;> rfl
  have hbirth : ∀ t : State, (dressed d t).countBirth = dressed d t.countBirth := fun _ => rfl
  have hroute : ∀ t : State, (dressed d t).countRoute r.source (· + 1) = dressed d (t.countRoute r.source (· + 1)) := fun _ => rfl
  unfold State.createRecord
  dsimp only
  rw [hclass, hbirth, withCopies_dressed, setRecord_dressed, hroute, foldl_dressed d (fun t h => enqueue_dressed d t h i),
    foldl_dressed d (fun t h => wakeFor_dressed d t h i)]

@[simp] theorem joinWaitList_dressed (ev : RawEvent) : (dressed d s).joinWaitList ev = dressed d (s.joinWaitList ev) := by
  unfold State.joinWaitList
  split <;> rfl

@[simp] theorem coalesce_dressed (n : SourceId) : (dressed d s).coalesce n = dressed d (s.coalesce n) := by
  unfold State.coalesce
  rw [newest?_dressed]
  split
  · rfl
  · exact modifyRecord_dressed ..

@[simp] theorem admitNew_dressed (ev : RawEvent) : (dressed d s).admitNew ev = dressed d (s.admitNew ev) := by
  simp only [State.admitNew, route_dressed, recipients_dressed, allocate?_dressed]
  split
  · rfl
  · split
    · exact joinWaitList_dressed ..
    · exact createRecord_dressed ..

@[simp] theorem admitClosed_dressed (ev : RawEvent) : (dressed d s).admitClosed ev = dressed d (s.admitClosed ev) := by
  unfold State.admitClosed
  rw [waits_dressed, route_dressed]
  split_ifs
  · rfl
  · exact coalesce_dressed ..
  · exact admitNew_dressed ..

@[simp] theorem admitEnabled_dressed (ev : RawEvent) : (dressed d s).admitEnabled ev = dressed d (s.admitEnabled ev) := by
  unfold State.admitEnabled
  cases ev with
  | group g m =>
    simp only [openRecord?_dressed]
    split
    · exact modifyRecord_dressed ..
    · exact admitClosed_dressed ..
  | line _ | reflost | hostlost _ | poolwait | hostback _ => exact admitClosed_dressed ..

@[simp] theorem admitOne_dressed (ev : RawEvent) : (dressed d s).admitOne ev = dressed d (s.admitOne ev) := by
  unfold State.admitOne
  rw [route_dressed]
  split
  · exact admitEnabled_dressed ..
  · rfl

@[simp] theorem admission_dressed (ev : RawEvent) : (dressed d s).admission ev = dressed d (s.admission ev) := by
  simp only [State.admission, admitOne_dressed, waitList_dressed]
  split <;> rfl

theorem handoffRounds_dressed (k : Nat) (s : State) : handoffRounds k (dressed d s) = dressed d (handoffRounds k s) := by
  induction k generalizing s with
  | zero => rfl
  | succ k ih =>
    unfold handoffRounds
    rw [waitList_dressed]
    split
    · rfl
    · next e rest _ =>
      rw [route_dressed, recipients_dressed, allocate?_dressed]
      split
      · exact ih { s with waitList := rest }
      · split
        · exact ih { s.setLastOutcome e.source .notarget with waitList := requeue rest e.refused }
        · split
          · rfl
          · rw [newRecord_dressed, createRecord_dressed]
            rfl

@[simp] theorem handoff_dressed : (dressed d s).handoff = dressed d s.handoff := handoffRounds_dressed d _ s

@[simp] theorem levelRecheck_dressed (n : LineId) : (dressed d s).levelRecheck n = dressed d (s.levelRecheck n) := by
  simp only [State.levelRecheck, line_dressed, route_dressed, admission_dressed]
  split <;> rfl

@[simp] theorem retire_dressed (i : SlotId) (r : Record) : (dressed d s).retire i r = dressed d (s.retire i r) := by
  have hoffer : ∀ t : State, (dressed d t).offerFreed r = dressed d (t.offerFreed r) := fun t => by
    simp only [State.offerFreed, handoff_dressed]
    split <;> rfl
  have hrecheck : ∀ t : State, (dressed d t).recheckLine r = dressed d (t.recheckLine r) := fun t => by
    simp only [State.recheckLine, levelRecheck_dressed]
    split <;> rfl
  rw [State.retire, closeRecord_dressed, hoffer, hrecheck, State.retire]

@[simp] theorem judge_dressed (i : SlotId) : (dressed d s).judge i = dressed d (s.judge i) := by
  simp only [State.judge, record?_dressed, retire_dressed]
  split
  · rfl
  · split <;> rfl

@[simp] theorem withdraw_dressed (i : SlotId) : (dressed d s).withdraw i = dressed d (s.withdraw i) := by
  refine foldl_dressed d (fun t h => ?_) allHosts s
  simp only [State.withdrawCopy, copy?_dressed, setCopy_dressed, dequeue_dressed]
  split
  · rfl
  · split <;> rfl

@[simp] theorem escalate_dressed (i : SlotId) (h : HostId) : (dressed d s).escalate i h = dressed d (s.escalate i h) := by
  simp only [State.escalate, record?_dressed, mayEscalate_dressed, escalatedRecord_dressed, setRecord_dressed, enqueue_dressed,
    wakeFor_dressed]
  split
  · rfl
  · split
    · rfl
    · split <;> rfl

@[simp] theorem cleanup_dressed (h : HostId) : (dressed d s).cleanup h = dressed d (s.cleanup h) := by
  have hcopy : ∀ t i, (dressed d t).cleanupCopy h i = dressed d (t.cleanupCopy h i) := fun t i => by
    simp only [State.cleanupCopy, copy?_dressed, setCopy_dressed, escalate_dressed, judge_dressed]
    split
    · rfl
    · split_ifs <;> rfl
  unfold State.cleanup State.voidReservations
  rw [foldl_dressed d (fun t i => modifyRecord_dressed d t i _), setPostUnit_dressed,
    foldl_dressed d (f := fun t i => t.cleanupCopy h i) hcopy, clearDelivery_dressed]

end Sys2Proof.Proofs.Dress
end

section
/-! PROOFS. The rules of the commands on a state dressed anew, and with it the row of a host command as the request transaction of its
frame and the completion in turn (R166, R168; log entry 2). -/

namespace Sys2Proof.Proofs.Rows

open Sys2Proof Sys2Proof.Machine Sys2Proof.Proofs.HostPorts Sys2Proof.Proofs.StepEffects Sys2Proof.Proofs.HostCommands
  Sys2Proof.Proofs.Dress

/-! ## The effects of the rules -/

section
variable (d : Attire) (s : State)

@[simp] theorem openSession_dressed (h : HostId) (grace wake : Nat) :
    (dressed d s).openSession h grace wake = dressed d (s.openSession h grace wake) := by
  unfold State.openSession
  rw [setHost_dressed d s (y := { s.host h with state := .run, graceLimit := grace, wakeLimit := wake, wakeTimer := none })
    (by rw [host_dressed])]
  exact setDeliv_dressed d _ (by rw [deliv_dressed])

@[simp] theorem freshAttach_dressed (h : HostId) (grace wake : Nat) :
    (dressed d s).freshAttach h grace wake = dressed d (s.freshAttach h grace wake) := by
  unfold State.freshAttach
  rw [setHostState_dressed, cleanup_dressed, openSession_dressed]

@[simp] theorem detachHost_dressed (h : HostId) : (dressed d s).detachHost h = dressed d (s.detachHost h) := by
  unfold State.detachHost
  rw [setHostState_dressed, cleanup_dressed]

@[simp] theorem sleepHost_dressed (h : HostId) : (dressed d s).sleepHost h = dressed d (s.sleepHost h) := by
  unfold State.sleepHost
  rw [setHostState_dressed, mapCopies_dressed]

@[simp] theorem takeHead_dressed (h : HostId) (i : SlotId) : (dressed d s).takeHead h i = dressed d (s.takeHead h i) := by
  unfold State.takeHead
  rw [pushStack_dressed, modifyRecord_dressed]

@[simp] theorem satisfy_dressed (i : SlotId) : (dressed d s).satisfy i = dressed d (s.satisfy i) := by
  unfold State.satisfy
  rw [record?_dressed, withdraw_dressed]
  split
  · rfl
  · split <;> rfl

@[simp] theorem ackTaken_dressed (h : HostId) (i : SlotId) (c : Copy) :
    (dressed d s).ackTaken h i c = dressed d (s.ackTaken h i c) := by
  unfold State.ackTaken
  rw [setCopy_dressed, popStack_dressed, satisfy_dressed]

@[simp] theorem ackOverdue_dressed (h : HostId) (i : SlotId) (c : Copy) :
    (dressed d s).ackOverdue h i c = dressed d (s.ackOverdue h i c) := by
  unfold State.ackOverdue
  rw [setCopy_dressed, escalate_dressed, popStack_dressed]

@[simp] theorem ackStale_dressed (h : HostId) (i : SlotId) (c : Copy) :
    (dressed d s).ackStale h i c = dressed d (s.ackStale h i c) := by
  unfold State.ackStale
  rw [setCopy_dressed, popStack_dressed]

theorem storeRoute_dressed (n : SourceId) (c : RouteConfig) : (dressed d s).storeRoute n c = dressed d (s.storeRoute n c) := by
  unfold State.storeRoute
  rw [route_dressed]
  dsimp only
  split <;> rfl

@[simp] theorem writeRoute_dressed (n : SourceId) (c : RouteConfig) : (dressed d s).writeRoute n c = dressed d (s.writeRoute n c) := by
  have hrearm : ∀ t : State, (dressed d t).enableRearm n = dressed d (t.enableRearm n) := fun t => by
    unfold State.enableRearm
    split
    · rfl
    · exact levelRecheck_dressed ..
  unfold State.writeRoute
  rw [route_dressed, storeRoute_dressed, hrearm]
  split <;> rfl

@[simp] theorem purgeSource_dressed (n : SourceId) : (dressed d s).purgeSource n = dressed d (s.purgeSource n) := by
  unfold State.purgeSource
  rw [slotsOf_dressed, dropWaiting_dressed]
  refine foldl_dressed d (fun t i => ?_) _ _
  unfold State.purgeRecord State.markPurged
  rw [modifyRecord_dressed, withdraw_dressed, judge_dressed]

theorem endStale_dressed (i : SlotId) (h : HostId) : (dressed d s).endStale i h = dressed d (s.endStale i h) := by
  unfold State.endStale
  rw [copy?_dressed]
  split
  · rfl
  · split
    · rw [setCopy_dressed]
      exact setDeliv_dressed d _ (by rw [deliv_dressed])
    · rfl

theorem flushRecord_dressed (i : SlotId) : (dressed d s).flushRecord i = dressed d (s.flushRecord i) := by
  unfold State.flushRecord State.markPurged
  rw [modifyRecord_dressed, withdraw_dressed, foldl_dressed d (fun t h => endStale_dressed d t i h)]
  dsimp only
  rw [record?_dressed]
  split
  · rfl
  · rw [closeRecord_dressed]
    split <;> rfl

theorem flushRearm_dressed (n : LineId) : (dressed d s).flushRearm n = dressed d (s.flushRearm n) := by
  unfold State.flushRearm
  rw [route_dressed, line_dressed, admission_dressed]
  split <;> rfl

@[simp] theorem flushAll_dressed : (dressed d s).flushAll = dressed d s.flushAll := by
  unfold State.flushAll State.flushStores
  rw [liveSlots_dressed, withWaitList_dressed, foldl_dressed d (flushRecord_dressed d), foldl_dressed d (clearDelivery_dressed d),
    foldl_dressed d (flushRearm_dressed d)]

@[simp] theorem createPost_dressed (p : HostId) (n : SourceId) (i : SlotId) (payload : BitVec 16) (receipt : Bool)
    (hosts : List HostId) (esc : Bool) :
    (dressed d s).createPost p n i payload receipt hosts esc = dressed d (s.createPost p n i payload receipt hosts esc) := by
  unfold State.createPost
  dsimp only
  rw [newRecord_dressed, createRecord_dressed]
  split <;> rfl

end

/-! ## The rules -/

/-- A rule that neither reads nor writes what the state wears. -/
def Plain (rule : State → State × Response) : Prop := ∀ d s, rule (dressed d s) = (dressed d (rule s).1, (rule s).2)

section
variable (p : HostId) (body : List Byte)

theorem identRule_plain : Plain (identRule p body) := fun d s => by
  unfold identRule
  split <;> rfl

theorem statusRule_plain : Plain (statusRule p body) := fun d s => by
  unfold statusRule
  rw [statusBytes_dressed]
  split <;> rfl

theorem attachRule_plain : Plain (attachRule p body) := fun d s => by
  unfold attachRule
  split
  · split
    · unfold attachChecked
      rw [host_dressed, openSession_dressed, freshAttach_dressed, admission_dressed]
      dsimp only
      split
      · rfl
      · rfl
      · split <;> rfl
    · rfl
  · rfl

theorem detachRule_plain : Plain (detachRule p body) := fun d s => by
  unfold detachRule
  rw [usable_dressed, deliv_dressed, detachHost_dressed]
  split_ifs <;> rfl

theorem powerRule_plain : Plain (powerRule p body) := fun d s => by
  unfold powerRule
  rw [usable_dressed, deliv_dressed, sleepHost_dressed, deepWakeOffered_dressed]
  split
  · rfl
  · split
    · split
      · rfl
      · rfl
      · split_ifs <;> rfl
    · rfl

theorem levelRule_plain : Plain (levelRule p body) := fun d s => by
  unfold levelRule
  rw [usable_dressed]
  split
  · rfl
  · split
    · split
      · exact congrArg (fun t => (t, bare .ok)) (setDeliv_dressed d s (by rw [deliv_dressed]))
      · rfl
    · rfl

theorem takeRule_plain : Plain (takeRule p body) := fun d s => by
  unfold takeRule
  rw [usable_dressed, deliv_dressed, head?_dressed]
  split
  · rfl
  · split
    · rfl
    · split
      · rfl
      · split
        · rfl
        · rw [aboveGate_dressed, takeHead_dressed, summaryAt_dressed]
          split <;> rfl

theorem peekRule_plain : Plain (peekRule p body) := fun d s => by
  unfold peekRule
  rw [usable_dressed, deliv_dressed, head?_dressed]
  split
  · rfl
  · split
    · rfl
    · split
      · rfl
      · rw [aboveGate_dressed, summaryAt_dressed]

theorem ackAnswer_dressed (d : Attire) (s : State) (i : SlotId) (result : ResultCode) (x : CopyState) :
    (dressed d s).ackAnswer i result x = (dressed d (s.ackAnswer i result x).1, (s.ackAnswer i result x).2) := by
  unfold State.ackAnswer
  rw [judge_dressed, conditionByte_dressed]

theorem ackCopy_plain (i : SlotId) (c : Copy) : Plain (ackCopy p i c) := fun d s => by
  unfold ackCopy
  rw [deliv_dressed, ackTaken_dressed, ackOverdue_dressed, ackStale_dressed, ackAnswer_dressed, ackAnswer_dressed, ackAnswer_dressed]
  dsimp only
  split <;> [rfl; rfl; rfl; rfl; rfl; split; split; split] <;> rfl

theorem ackRule_plain : Plain (ackRule p body) := fun d s => by
  unfold ackRule
  rw [usable_dressed]
  split
  · rfl
  · split
    · rw [resolve_dressed]
      split
      · rfl
      · rw [copy?_dressed]
        split
        · rfl
        · exact ackCopy_plain p _ _ d s
    · rfl

theorem detailRule_plain : Plain (detailRule p body) := fun d s => by
  unfold detailRule
  rw [usable_dressed]
  split
  · rfl
  · split
    · split
      · rfl
      · rw [resolve_dressed]
        split <;> rfl
    · rfl

theorem postChecked_plain (n : SourceId) (payload : BitVec 16) (receipt : Bool) : Plain (postChecked p n payload receipt) := fun d s => by
  unfold postChecked
  dsimp only
  rw [route_dressed, receiptsFull_dressed, recipients_dressed, allocate?_dressed]
  split_ifs
  · rfl
  · rfl
  · rfl
  · rfl
  · split
    · rfl
    · split
      · rfl
      · rw [createPost_dressed, idBytes_dressed]

theorem postRule_plain : Plain (postRule p body) := fun d s => by
  unfold postRule
  rw [usable_dressed]
  split
  · rfl
  · split
    · split
      · split
        · rfl
        · exact postChecked_plain p _ _ _ d s
      · rfl
    · rfl

theorem receiptRule_plain : Plain (receiptRule p body) := fun d s => by
  unfold receiptRule
  rw [usable_dressed, postUnit_dressed]
  split
  · rfl
  · split
    · rfl
    · split <;> rfl

theorem routeReadRule_plain : Plain (routeReadRule p body) := fun d s => by
  unfold routeReadRule
  rw [usable_dressed]
  split
  · rfl
  · split
    · split <;> rfl
    · rfl

theorem routeWriteRule_plain : Plain (routeWriteRule p body) := fun d s => by
  unfold routeWriteRule
  rw [usable_dressed]
  split
  · rfl
  · split
    · split
      · rfl
      · rw [mayEdit_dressed, route_dressed, administrator_dressed]
        split_ifs
        · rfl
        · rfl
        · rfl
        · split
          · rfl
          · unfold routeWriteChecked
            rw [administrator_dressed, levelLineSource_dressed, writeRoute_dressed]
            split_ifs <;> rfl
    · rfl

theorem purgeRule_plain : Plain (purgeRule p body) := fun d s => by
  unfold purgeRule
  rw [usable_dressed]
  split
  · rfl
  · split
    · split
      · rfl
      · rw [mayEdit_dressed, purgeSource_dressed, slotsOf_dressed]
        split <;> rfl
    · rfl

theorem lineReadRule_plain : Plain (lineReadRule p body) := fun d s => by
  unfold lineReadRule
  rw [usable_dressed]
  split
  · rfl
  · split
    · split <;> rfl
    · rfl

theorem lineWriteRule_plain : Plain (lineWriteRule p body) := fun d s => by
  unfold lineWriteRule
  rw [usable_dressed]
  split
  · rfl
  · split
    · split
      · rfl
      · rw [mayEdit_dressed, regroupRefused_dressed]
        split_ifs
        · rfl
        · rfl
        · split
          · rfl
          · unfold lineWriteChecked
            rw [route_dressed, line_dressed, groupFull_dressed, setLine_dressed]
            split_ifs <;> rfl
    · rfl

theorem flushallRule_plain : Plain (flushallRule p body) := fun d s => by
  unfold flushallRule
  rw [usable_dressed, administrator_dressed, flushAll_dressed, liveSlots_dressed]
  generalize s.flushAll = t
  split_ifs <;> rfl

theorem restoreRule_plain : Plain (restoreRule p body) := fun d s => by
  unfold restoreRule
  rw [usable_dressed, administrator_dressed, clock_dressed]
  split_ifs <;> rfl

theorem ruleOf_plain (c : Cmd) : Plain (ruleOf c p body) := by
  cases c
  case ident => exact identRule_plain p body
  case status => exact statusRule_plain p body
  case attach => exact attachRule_plain p body
  case detach => exact detachRule_plain p body
  case power => exact powerRule_plain p body
  case level => exact levelRule_plain p body
  case take => exact takeRule_plain p body
  case peek => exact peekRule_plain p body
  case ack => exact ackRule_plain p body
  case detail => exact detailRule_plain p body
  case post => exact postRule_plain p body
  case receipt => exact receiptRule_plain p body
  case routeRead => exact routeReadRule_plain p body
  case routeWrite => exact routeWriteRule_plain p body
  case purge => exact purgeRule_plain p body
  case lineRead => exact lineReadRule_plain p body
  case lineWrite => exact lineWriteRule_plain p body
  case flushall => exact flushallRule_plain p body
  case restore => exact restoreRule_plain p body

end

/-! ## The request and its completion -/

/-- What a state wears itself. -/
def wornBy (s : State) : Attire :=
  { ports := s.ports, attn := fun h => (s.deliv h).attnLine, wake := fun h => (s.host h).wakeLine }

/-- What a state wears once its lines are driven. -/
def driven (s : State) (ports : Vector Port 4) : Attire := { ports := ports, attn := s.attnCondition, wake := s.wakeCondition }

theorem dressed_wornBy (s : State) : dressed (wornBy s) s = s := by
  have hdelivery : vof (fun h => s.deliv h) = s.delivery := vof_vget s.delivery
  have hhosts : vof (fun h => s.host h) = s.hosts := vof_vget s.hosts
  unfold dressed wornBy
  dsimp only
  rw [hdelivery, hhosts]

/-- What was worn before is not seen any more. -/
theorem dressed_dressed (e d : Attire) (s : State) : dressed e (dressed d s) = dressed e s := by
  have hdelivery : vof (fun h => { (dressed d s).deliv h with attnLine := e.attn h })
      = vof (fun h => { s.deliv h with attnLine := e.attn h }) := congrArg vof (funext fun h => by rw [deliv_dressed])
  have hhosts : vof (fun h => { (dressed d s).host h with wakeLine := e.wake h })
      = vof (fun h => { s.host h with wakeLine := e.wake h }) := congrArg vof (funext fun h => by rw [host_dressed])
  exact congrArg₂ (fun x y => { s with ports := e.ports, delivery := x, hosts := y }) hdelivery hhosts

section
variable {s : State} {p : HostId} {c : Cmd} {body : List Byte}

theorem rule_ports (s : State) (p : HostId) (c : Cmd) (body : List Byte) : (ruleOf c p body s).1.ports = s.ports := by
  have h := ruleOf_plain p body c (wornBy s) s
  rw [dressed_wornBy] at h
  exact congrArg (fun x : State × Response => x.1.ports) h

theorem setPort_driveLines_eq (s : State) (p : HostId) (x : Port) :
    (s.setPort p x).driveLines = dressed (driven s (vset s.ports p x)) s := rfl

/-- Lines are driven by conditions that no attire changes (R101, R155). -/
theorem setPort_driveLines_dressed (d : Attire) (s : State) (p : HostId) (x : Port) :
    ((dressed d s).setPort p x).driveLines = dressed (driven s (vset d.ports p x)) s := by
  have hattn : (dressed d s).attnCondition = s.attnCondition := funext fun h => by
    simp [State.attnCondition, State.eligibleHead]
  have hwake : (dressed d s).wakeCondition = s.wakeCondition := funext fun h => by simp [State.wakeCondition]
  rw [setPort_driveLines_eq, dressed_dressed]
  unfold driven
  rw [hattn, hwake]
  rfl

/-- The port with a frame taken, until its command acts (R166, case 4). -/
def takenPort (x : Port) (c : Cmd) (body : List Byte) : Port :=
  { x with execution := .received c body, dropped := false, sdo := List.replicate (body.length + 3) 0 }

/-- The transaction of a command's frame, on a port that listens and executes nothing, begins its execution (R166, case 4). -/
theorem transaction_requestFrame (hi : (s.port p).ignoring = false) (hx : (s.port p).execution = .idle) (hb : body.length ≤ 24) :
    s.transaction p (requestFrame c body) = ((s.returnToRun p).setPort p (takenPort (s.port p) c body)).driveLines := by
  have hcode : cmdCode c ≠ 0 := by cases c <;> decide
  have hlength : (requestFrame c body).length = body.length + 3 := by simp [requestFrame]
  have hjudge : judgeFrame (requestFrame c body) = .valid c body := (Encodings.validFramesAreRequestFrames _ c body).mpr ⟨rfl, hb⟩
  have hrequest : s.transaction p (requestFrame c body)
      = (s.drivesZero p (requestFrame c body).length).requestOn p (requestFrame c body) := by
    unfold State.transaction
    rw [hi]
    exact if_neg hcode
  have hidle : ((s.drivesZero p (requestFrame c body).length).port p).executing = false := by
    rw [port_drivesZero_same]
    simp [Port.executing, hx]
  rw [hrequest, State.requestOn, hidle, hjudge, hlength]
  simp only [State.beginExecution, State.drivesZero, port_setPort_same, setPort_setPort, returnToRun_setPort, Bool.false_eq_true,
    if_false]
  rfl

/-- The completion of the frame so taken is the row of its command (log entry 2). -/
theorem complete_taken (hx : (s.port p).execution = .idle) :
    (((s.returnToRun p).setPort p (takenPort (s.port p) c body)).driveLines).complete p = s.carryOut p body (ruleOf c) := by
  obtain ⟨hdeep, hwaking⟩ := returnToRun_awake s p
  unfold State.carryOut State.answered
  have hports := rule_ports (s.returnToRun p) p c body
  have hrule := fun d => ruleOf_plain p body c d (s.returnToRun p)
  generalize s.returnToRun p = w at *
  generalize ruleOf c p body w = x at *
  rw [setPort_driveLines_eq, setPort_driveLines_eq, hports]
  generalize hd : driven w (vset w.ports p (takenPort (s.port p) c body)) = d
  have hdp : d.ports = vset w.ports p (takenPort (s.port p) c body) := by rw [← hd]; rfl
  have hport : (dressed d w).port p = takenPort (s.port p) c body := by
    show vget d.ports p = _
    rw [hdp, vget_vset_same]
  have hawake : (dressed d w).returnToRun p = dressed d w := returnToRun_of_awake (by rw [host_dressed]; exact hdeep)
    (by rw [host_dressed]; exact hwaking)
  have hexec : ((dressed d w).port p).execution = .received c body := by rw [hport]; rfl
  have hanswered : (dressed d w).answeredPort p body x.2 = { takenPort (s.port p) c body with execution := .answered x.2 } := by
    simp only [State.answeredPort, hport]
    rfl
  have hrow : s.answeredPort p body x.2
      = { takenPort (s.port p) c body with buffer := some x.2, execution := .idle } := by
    simp only [State.answeredPort, hx]
    rfl
  simp only [State.complete, hexec, State.carryOut, State.answered, State.placeAnswer, hawake, hrule, setPort_driveLines,
    setPort_setPort, port_driveLines, port_setPort_same, hanswered]
  rw [setPort_driveLines_dressed, hdp, hrow]
  simp [vset]

end

/-- Settles O9: a frame taken and completed acts as its row, since no rule reads what the transaction leaves on ports and lines; and a
row that its port is not ready for is the transaction by definition. -/
theorem rowIsItsRequestAndCompletion : Obligations.RowIsItsRequestAndCompletion := by
  intro s p c body
  refine ⟨fun hx hb => ⟨s.transaction p (requestFrame c body), rfl, ?_⟩, fun hready => ?_⟩
  · refine congrArg Host.Outcome.next (?_ : (s.transaction p (requestFrame c body)).complete p = _) |>.trans (exec_rowOf c p body s).symm
    cases hi : (s.port p).ignoring with
    | true =>
      have hready : s.ready p c body = false := by simp [State.ready, hx, hi]
      rw [hostCommand_of_not_ready hready, transaction_of_ignoring hi]
      have hidle : ((s.ignoreTransaction p).port p).execution = .idle := by
        unfold State.ignoreTransaction
        rw [port_setPort_same]
        exact hx
      simp only [State.complete, hidle]
    | false =>
      have hready : s.ready p c body = true := by simp [State.ready, hx, hi, hb]
      rw [hostCommand_of_ready hready, transaction_requestFrame hi hx hb]
      exact complete_taken hx
  · rw [exec_rowOf, hostCommand_of_not_ready hready]
    rfl

end Sys2Proof.Proofs.Rows
end
